-- ==== Sys2Proof/Word.lean ====
section
/-! DEFINITION. The plainest data types: a byte (a colour channel, R22, R91) and a compare word
(`00_scope.md` R10: a model may treat the width `W` as unbounded as long as R11 is enforced;
`20_memory.md` R61: a compare word is kept as one number). -/

namespace Sys2Proof

/-- Eight bits: one channel intensity of a Color Value (R91), or one byte of an encoded request (R110). -/
abbrev Byte := BitVec 8

/-- A compare value: the high time of one pulse in timer ticks (R94). The block never computes with one (R131). -/
abbrev CompareWord := Nat

end Sys2Proof
end

