-- ==== Sys2Proof/Syntax.lean ====
section
/-! DEFINITION. The operations, wire formats and symbols as data: one constructor of `Instr` per row of
`spec/opcode_table.json` (`30_encoding.md` R92, R94, R99, R100), and the small fixed sets of names the rules use. -/

namespace Sys2Proof

/-- `ORDER` (R6): the channel order on the wire. -/
inductive ChannelOrder where
  | grb
  | rgb
  deriving DecidableEq, Repr

/-- A Color Value (R91). `white` means something only when `HAS_WHITE = 1`; it is 0 otherwise (R110). -/
structure Color where
  red : Byte
  green : Byte
  blue : Byte
  white : Byte
  deriving DecidableEq, Repr

/-- Black: the Color Value with every channel 0 (glossary of `00_scope.md`). -/
def Color.black : Color := ⟨0, 0, 0, 0⟩

/-- The logic level of the data wire (R43, R144). -/
inductive Level where
  | low
  | high
  deriving DecidableEq, Repr

/-- The two execution contexts (R270). -/
inductive Context where
  | thread
  | interrupt
  deriving DecidableEq, Repr

/-- The agents that take steps (R12). -/
inductive Agent where
  | app
  | irq
  | eng
  deriving DecidableEq, Repr

/-- The two interrupt sources (R260). -/
inductive IrqSource where
  | halfTransfer
  | transferComplete
  deriving DecidableEq, Repr

/-- The three symbols of the wire (R94). -/
inductive Symbol where
  | bit0
  | bit1
  | pause
  deriving DecidableEq, Repr

/-- One constructor per row of `spec/opcode_table.json`: the twelve operations of R100, the four LED word
formats of R92 (fields named by channel), and the three symbols of R94. -/
inductive Instr where
  | init
  | setLed (index : Nat) (color : Color)
  | setAllLeds (color : Color) (count : Nat) (refreshFlag : Bool)
  | refresh (nLeds : Nat)
  | slot
  | onHalfTransfer
  | onComplete
  | tick
  | encode (color : Color)
  | fillHalf
  | arm
  | disarm
  | ledwordGrb24 (green red blue : Byte)
  | ledwordRgb24 (red green blue : Byte)
  | ledwordGrbw32 (green red blue white : Byte)
  | ledwordRgbw32 (red green blue white : Byte)
  | symBit0
  | symBit1
  | symPause
  deriving DecidableEq, Repr

/-- The four commands of the application's interface (R99, R100: rows of kind "command", agent `APP`). -/
def Instr.isCommand : Instr → Bool
  | .init => true
  | .setLed _ _ => true
  | .setAllLeds _ _ _ => true
  | .refresh _ => true
  | .slot => false
  | .onHalfTransfer => false
  | .onComplete => false
  | .tick => false
  | .encode _ => false
  | .fillHalf => false
  | .arm => false
  | .disarm => false
  | .ledwordGrb24 _ _ _ => false
  | .ledwordRgb24 _ _ _ => false
  | .ledwordGrbw32 _ _ _ _ => false
  | .ledwordRgbw32 _ _ _ _ => false
  | .symBit0 => false
  | .symBit1 => false
  | .symPause => false

/-- The context a row is issued from (R271, and the agents of R100). A row of `ENG` (`slot`, `tick`) runs in neither
context and a row of any agent in both: for these, and for `fill_half`, thread context stands here (log 20). -/
def Instr.context : Instr → Context
  | .init => .thread
  | .setLed _ _ => .thread
  | .setAllLeds _ _ _ => .thread
  | .refresh _ => .thread
  | .slot => .thread
  | .onHalfTransfer => .interrupt
  | .onComplete => .interrupt
  | .tick => .thread
  | .encode _ => .thread
  | .fillHalf => .thread
  | .arm => .thread
  | .disarm => .interrupt
  | .ledwordGrb24 _ _ _ => .thread
  | .ledwordRgb24 _ _ _ => .thread
  | .ledwordGrbw32 _ _ _ _ => .thread
  | .ledwordRgbw32 _ _ _ _ => .thread
  | .symBit0 => .thread
  | .symBit1 => .thread
  | .symPause => .thread

/-- The rows R100 calls "never issued on their own" although they change the block's state: `fill_half`, `arm`
and `disarm`. (`encode` is such a row too, but it is pure, R177.) -/
def Instr.isInnerProcedure : Instr → Bool
  | .init => false
  | .setLed _ _ => false
  | .setAllLeds _ _ _ => false
  | .refresh _ => false
  | .slot => false
  | .onHalfTransfer => false
  | .onComplete => false
  | .tick => false
  | .encode _ => false
  | .fillHalf => true
  | .arm => true
  | .disarm => true
  | .ledwordGrb24 _ _ _ => false
  | .ledwordRgb24 _ _ _ => false
  | .ledwordGrbw32 _ _ _ _ => false
  | .ledwordRgbw32 _ _ _ _ => false
  | .symBit0 => false
  | .symBit1 => false
  | .symPause => false

end Sys2Proof
end

