-- ==== Sys2Proof/Config.lean ====
section
/-! DEFINITION. What an implementation fixes (`00_scope.md` R6 to R10), as plain records, and the one free
value of the model, the pin sample. The arithmetic that derives the Timing Table and the build constraints
are in `Sys2Proof/Machine/Timing.lean`. -/

namespace Sys2Proof

/-- The parameters of R6, R7, R8 and R10. All are build-time constants. -/
structure Params where
  order : ChannelOrder
  hasWhite : Bool
  maxLeds : Nat
  clkHz : Nat
  periodNs : Nat
  t0hNs : Nat
  t1hNs : Nat
  pauseNs : Nat
  w : Nat
  idxW : Nat
  deriving DecidableEq, Repr

/-- The derived constants of R9. A platform whose macros round differently supplies its own `PERIOD_TICKS`, `T0H`
and `T1H` (`92_eei_decisions.md` D3, `93_implementation_defined.md` U7), so they are held beside the parameters.
DESIGN CHOICE (log 23): `PAUSE_MIN_SLOTS`, which D3 and U7 do not name, is held so too, and a valid configuration
bounds it by R11 alone. -/
structure TimingTable where
  periodTicks : Nat
  t0h : Nat
  t1h : Nat
  pauseMinSlots : Nat
  deriving DecidableEq, Repr

/-- The configuration record every rule is stated over (`92_eei_decisions.md` section 1). -/
structure Config where
  params : Params
  table : TimingTable
  deriving DecidableEq, Repr

/-- FREE VALUE (log 8). The `n`-th bit ENV supplies when `init` draws `pin_sample` (R231, U5: chosen under no
law). It has no body, so no proof can know a value of it. -/
opaque Config.pinSample : Nat → Bool

end Sys2Proof
end

