-- ==== Sys2Proof/WellFormed.lean ====
section
/-! DEFINITION. Which terms of `Instr` are operations of a build: operands in the range of R99, colours of the
build's channels (R106, R110), the LED word format of the build's variant (R92, R96). `Instr.fits` says which can be
written as an abstract command word (R110). -/

namespace Sys2Proof

/-- A colour operand has exactly `NCH` channels: in a 3-channel build the white field is 0 (R106, R110). -/
def Color.wf (hasWhite : Bool) (c : Color) : Bool := hasWhite || decide (c.white = 0)

/-- `index`, `count` and `n_leds` are naturals below `2^IDX_W` (R99). -/
def operandInRange (p : Params) (n : Nat) : Bool := decide (n < 2 ^ p.idxW)

/-- An LED word format belongs to one variant: "exactly one variant compiled in", "never mixed" (R92, R96; log 19). -/
def ofVariant (p : Params) (order : ChannelOrder) (hasWhite : Bool) : Bool :=
  decide (p.order = order) && decide (p.hasWhite = hasWhite)

/-- The operands of an operation are ones the build has (R99, R106), and an LED word is of the build's variant (R96). -/
def Instr.wf (p : Params) : Instr → Bool
  | .init => true
  | .setLed index color => operandInRange p index && color.wf p.hasWhite
  | .setAllLeds color count _ => operandInRange p count && color.wf p.hasWhite
  | .refresh nLeds => operandInRange p nLeds
  | .slot => true
  | .onHalfTransfer => true
  | .onComplete => true
  | .tick => true
  | .encode color => color.wf p.hasWhite
  | .fillHalf => true
  | .arm => true
  | .disarm => true
  | .ledwordGrb24 _ _ _ => ofVariant p .grb false
  | .ledwordRgb24 _ _ _ => ofVariant p .rgb false
  | .ledwordGrbw32 _ _ _ _ => ofVariant p .grb true
  | .ledwordRgbw32 _ _ _ _ => ofVariant p .rgb true
  | .symBit0 => true
  | .symBit1 => true
  | .symPause => true

/-- The operand of field `a` fits its 16 bits of the abstract command word (R110). -/
def Instr.fits : Instr → Bool
  | .init => true
  | .setLed index _ => decide (index < 65536)
  | .setAllLeds _ count _ => decide (count < 65536)
  | .refresh nLeds => decide (nLeds < 65536)
  | .slot => true
  | .onHalfTransfer => true
  | .onComplete => true
  | .tick => true
  | .encode _ => true
  | .fillHalf => true
  | .arm => true
  | .disarm => true
  | .ledwordGrb24 _ _ _ => true
  | .ledwordRgb24 _ _ _ => true
  | .ledwordGrbw32 _ _ _ _ => true
  | .ledwordRgbw32 _ _ _ _ => true
  | .symBit0 => true
  | .symBit1 => true
  | .symPause => true

/-- An LED word format belongs to one channel order (R92); every other row belongs to both. -/
def Instr.ofOrder (order : ChannelOrder) : Instr → Bool
  | .init => true
  | .setLed _ _ => true
  | .setAllLeds _ _ _ => true
  | .refresh _ => true
  | .slot => true
  | .onHalfTransfer => true
  | .onComplete => true
  | .tick => true
  | .encode _ => true
  | .fillHalf => true
  | .arm => true
  | .disarm => true
  | .ledwordGrb24 _ _ _ => decide (order = .grb)
  | .ledwordRgb24 _ _ _ => decide (order = .rgb)
  | .ledwordGrbw32 _ _ _ _ => decide (order = .grb)
  | .ledwordRgbw32 _ _ _ _ => decide (order = .rgb)
  | .symBit0 => true
  | .symBit1 => true
  | .symPause => true

end Sys2Proof
end

