-- ==== Sys2Proof/Decode.lean ====
section
/-! DEFINITION. From bytes to operations and back (`30_encoding.md` R92, R94, R100, R110). The number of bytes
says which format a request has: 8 an abstract command word (R110), 4 and 3 an LED word (R92), 2 a compare word,
1 a serial bit (R94). Within a word, byte `k` is bits `8k+7 .. 8k`. Decoding is total and rejects by name. -/

namespace Sys2Proof

/-- Why bytes are no row of the opcode table. -/
inductive DecodeError where
  /-- No format has this many bytes. -/
  | wrongLength
  /-- Ordinals 12 to 15 are unassigned (R100). -/
  | unassignedOrdinal
  /-- A field the operation does not use is not zero (R110). -/
  | unusedFieldNotZero
  /-- A serial bit is 0 or 1 (R94). -/
  | notASerialBit
  /-- The only compare word with a row of its own is the pause value 0. DESIGN CHOICE (log 24): any other two-byte
  request is rejected, the values `T0H` and `T1H`, which R95 and R107 do not reserve, among them. -/
  | reservedCompareWord
  deriving DecidableEq, Repr

/-- The number whose byte `k` (bits `8k+7 .. 8k`) is the `k`-th of the list. -/
def wordOfBytes : List Byte → Nat
  | [] => 0
  | b :: bs => b.toNat + 256 * wordOfBytes bs

/-- The `n` bytes of a number, least significant first. -/
def bytesOfWord : Nat → Nat → List Byte
  | 0, _ => []
  | n + 1, w => BitVec.ofNat 8 w :: bytesOfWord n (w / 256)

/-- Field `a` of the abstract command word: bits 19..4 (R110). R110 writes the word for the default `IDX_W = 16` only;
the model keeps these 16 bits in every build, and a wider operand is requested by a call (log 22). -/
def cmdA (w : Nat) : Nat := w / 2 ^ 4 % 2 ^ 16

/-- The colour fields: red 27..20, green 35..28, blue 43..36, white 51..44 (R110). -/
def cmdColor (w : Nat) : Color where
  red := BitVec.ofNat 8 (w / 2 ^ 20)
  green := BitVec.ofNat 8 (w / 2 ^ 28)
  blue := BitVec.ofNat 8 (w / 2 ^ 36)
  white := BitVec.ofNat 8 (w / 2 ^ 44)

/-- Field `refresh_flag`: bit 52 (R110). -/
def cmdFlag (w : Nat) : Bool := decide (w / 2 ^ 52 % 2 = 1)

/-- The unused bits of a word are zero, or it is rejected (R110). -/
def whenZero (unused : Nat) (i : Instr) : Except DecodeError Instr :=
  if unused = 0 then .ok i else .error .unusedFieldNotZero

/-- The abstract command word (R110): the ordinal in bits 3..0 (R100), then the fields that row uses. -/
def decodeCommand (w : Nat) : Except DecodeError Instr :=
  match w % 16 with
  | 0 => whenZero (w / 2 ^ 4) .init
  | 1 => whenZero (w / 2 ^ 52) (.setLed (cmdA w) (cmdColor w))
  | 2 => whenZero (w / 2 ^ 53) (.setAllLeds (cmdColor w) (cmdA w) (cmdFlag w))
  | 3 => whenZero (w / 2 ^ 20) (.refresh (cmdA w))
  | 4 => whenZero (w / 2 ^ 4) .slot
  | 5 => whenZero (w / 2 ^ 4) .onHalfTransfer
  | 6 => whenZero (w / 2 ^ 4) .onComplete
  | 7 => whenZero (w / 2 ^ 4) .tick
  | 8 => whenZero (cmdA w + w / 2 ^ 52) (.encode (cmdColor w))
  | 9 => whenZero (w / 2 ^ 4) .fillHalf
  | 10 => whenZero (w / 2 ^ 4) .arm
  | 11 => whenZero (w / 2 ^ 4) .disarm
  | _ => .error .unassignedOrdinal

/-- A 24-bit LED word (R92): `[23:16]`, `[15:8]`, `[7:0]` in the build's channel order. -/
def decodeLedWord24 (order : ChannelOrder) (top mid low : Byte) : Instr :=
  match order with
  | .grb => .ledwordGrb24 top mid low
  | .rgb => .ledwordRgb24 top mid low

/-- A 32-bit LED word (R92): `[31:24]`, `[23:16]`, `[15:8]`, `[7:0]` in the build's channel order, white last. -/
def decodeLedWord32 (order : ChannelOrder) (top upper lower low : Byte) : Instr :=
  match order with
  | .grb => .ledwordGrbw32 top upper lower low
  | .rgb => .ledwordRgbw32 top upper lower low

/-- A serial bit (R94), alone in its byte (log 24). -/
def decodeSerialBit (b : Byte) : Except DecodeError Instr :=
  if b = 0 then .ok .symBit0 else if b = 1 then .ok .symBit1 else .error .notASerialBit

/-- The compare word with a row of its own: the pause (R94). DESIGN CHOICE (log 24): the word has the 16 bits of its
row in every build, whatever `W` is, and every other one is rejected, `T0H` and `T1H` too: their rows are the serial
bits. -/
def decodeCompareWord (b0 b1 : Byte) : Except DecodeError Instr :=
  if b0 = 0 ∧ b1 = 0 then .ok .symPause else .error .reservedCompareWord

/-- Decode the bytes of one request, least significant byte first. The channel order of the build settles
which LED word format the bits have (R96: "fixed per variant and never mixed"). -/
def decode (order : ChannelOrder) (bytes : List Byte) : Except DecodeError Instr :=
  match bytes with
  | [b] => decodeSerialBit b
  | [b0, b1] => decodeCompareWord b0 b1
  | [b0, b1, b2] => .ok (decodeLedWord24 order b2 b1 b0)
  | [b0, b1, b2, b3] => .ok (decodeLedWord32 order b3 b2 b1 b0)
  | [b0, b1, b2, b3, b4, b5, b6, b7] => decodeCommand (wordOfBytes [b0, b1, b2, b3, b4, b5, b6, b7])
  | _ => .error .wrongLength

/-- The colour fields of an abstract command word (R110). -/
def colorBits (c : Color) : Nat :=
  c.red.toNat * 2 ^ 20 + c.green.toNat * 2 ^ 28 + c.blue.toNat * 2 ^ 36 + c.white.toNat * 2 ^ 44

/-- The abstract command word of an operation (R110); rows that are no operation have none and give 0. -/
def commandWord : Instr → Nat
  | .init => 0
  | .setLed index color => 1 + index * 2 ^ 4 + colorBits color
  | .setAllLeds color count flag => 2 + count * 2 ^ 4 + colorBits color + flag.toNat * 2 ^ 52
  | .refresh nLeds => 3 + nLeds * 2 ^ 4
  | .slot => 4
  | .onHalfTransfer => 5
  | .onComplete => 6
  | .tick => 7
  | .encode color => 8 + colorBits color
  | .fillHalf => 9
  | .arm => 10
  | .disarm => 11
  | .ledwordGrb24 _ _ _ => 0
  | .ledwordRgb24 _ _ _ => 0
  | .ledwordGrbw32 _ _ _ _ => 0
  | .ledwordRgbw32 _ _ _ _ => 0
  | .symBit0 => 0
  | .symBit1 => 0
  | .symPause => 0

/-- The bytes of a request, written from the encoding tables of R92, R94 and R110. -/
def encode : Instr → List Byte
  | .init => bytesOfWord 8 (commandWord .init)
  | .setLed index color => bytesOfWord 8 (commandWord (.setLed index color))
  | .setAllLeds color count flag => bytesOfWord 8 (commandWord (.setAllLeds color count flag))
  | .refresh nLeds => bytesOfWord 8 (commandWord (.refresh nLeds))
  | .slot => bytesOfWord 8 (commandWord .slot)
  | .onHalfTransfer => bytesOfWord 8 (commandWord .onHalfTransfer)
  | .onComplete => bytesOfWord 8 (commandWord .onComplete)
  | .tick => bytesOfWord 8 (commandWord .tick)
  | .encode color => bytesOfWord 8 (commandWord (.encode color))
  | .fillHalf => bytesOfWord 8 (commandWord .fillHalf)
  | .arm => bytesOfWord 8 (commandWord .arm)
  | .disarm => bytesOfWord 8 (commandWord .disarm)
  | .ledwordGrb24 green red blue => [blue, red, green]
  | .ledwordRgb24 red green blue => [blue, green, red]
  | .ledwordGrbw32 green red blue white => [white, blue, red, green]
  | .ledwordRgbw32 red green blue white => [white, blue, green, red]
  | .symBit0 => [0]
  | .symBit1 => [1]
  | .symPause => [0, 0]

/-- The bytes of a table word of `nbits` bits (bit 0 is the least significant of the first word). -/
def tableBytes (nbits w : Nat) : List Byte := bytesOfWord (nbits / 8) w

/-- What the decoder reads from an instruction whose bits are `w`, numbered as `spec/opcode_table.json` numbers
them. The table gives no build, and the two orders share their LED words' bits, so the words are read as those
of the build `State.reset` has: channel order `GRB` (log 13). -/
def decodeTableWord (nbits w : Nat) : Option Instr :=
  match decode .grb (tableBytes nbits w) with
  | .ok i => some i
  | .error _ => none

end Sys2Proof
end

