-- ==== Sys2Proof/Machine/Timing.lean ====
section
/-! DEFINITION. The Timing Table and the arithmetic laws of the block (`40_timing_table.md`), the derived sizes
(R6), the build constraints (R11), and the reference configurations of `95_test_vectors.md` section 1. -/

namespace Sys2Proof

/-- `round(a / b) = floor(a/b + 1/2)` on exact rationals, a tie going up (R120). -/
def roundDiv (a b : Nat) : Nat := (2 * a + b) / (2 * b)

/-- `ceil(a / b)` (R120). -/
def ceilDiv (a b : Nat) : Nat := (a + b - 1) / b

/-- `PERIOD_TICKS = round(CLK_HZ * PERIOD_NS / 10^9) - 1` (R121). -/
def Params.periodTicks (p : Params) : Nat := roundDiv (p.clkHz * p.periodNs) 1000000000 - 1

/-- A pulse threshold: `round(PERIOD_TICKS * pulse_ns / PERIOD_NS)` (R122). -/
def Params.threshold (p : Params) (pulseNs : Nat) : Nat := roundDiv (p.periodTicks * pulseNs) p.periodNs

/-- `PAUSE_MIN_SLOTS = ceil(PAUSE_NS / PERIOD_NS)` (R124). -/
def Params.pauseMinSlots (p : Params) : Nat := ceilDiv p.pauseNs p.periodNs

/-- The derived constants, by the formulas of R121, R122 and R124. -/
def Params.timingTable (p : Params) : TimingTable where
  periodTicks := p.periodTicks
  t0h := p.threshold p.t0hNs
  t1h := p.threshold p.t1hNs
  pauseMinSlots := p.pauseMinSlots

/-- The configuration whose Timing Table is the one the formulas give. -/
def Params.build (p : Params) : Config := ⟨p, p.timingTable⟩

/-- `NCH = 3 + HAS_WHITE` (R6). -/
def Config.nch (c : Config) : Nat := if c.params.hasWhite then 4 else 3

/-- `BPL = 8 * NCH`, the serial bits of one LED (R6). -/
def Config.bpl (c : Config) : Nat := 8 * c.nch

/-- `SCRATCH_LEN = 2 * BPL` (R6). -/
def Config.scratchLen (c : Config) : Nat := 2 * c.bpl

/-- `frame_len(n)` (R126): the least multiple of `SCRATCH_LEN` that is at least `n * BPL + PAUSE_MIN_SLOTS`. -/
def Config.frameLen (c : Config) (n : Nat) : Nat :=
  c.scratchLen * ceilDiv (n * c.bpl + c.table.pauseMinSlots) c.scratchLen

/-- `pause_slots(n) = frame_len(n) - n * BPL` (R127). -/
def Config.pauseSlots (c : Config) (n : Nat) : Nat := c.frameLen n - n * c.bpl

/-- R8: the protocol and clock parameters are positive integers. -/
def Params.positive (p : Params) : Bool :=
  decide (0 < p.clkHz) && decide (0 < p.periodNs) && decide (0 < p.t0hNs) && decide (0 < p.t1hNs)
    && decide (0 < p.pauseNs)

/-- The build constraints of R11 (with R8): a record that breaks one is not a configuration (R128, R251). That the
Timing Table is the one the formulas give is not among them (D3, U7; for `PAUSE_MIN_SLOTS` log 23). -/
def Config.valid (c : Config) : Bool :=
  c.params.positive
    && decide (1 ≤ c.table.t0h) && decide (c.table.t0h < c.table.t1h)
    && decide (c.table.t1h ≤ c.table.periodTicks) && decide (c.table.periodTicks < 2 ^ c.params.w)
    && decide (1 ≤ c.table.pauseMinSlots)
    && decide (1 ≤ c.params.maxLeds) && decide (c.params.maxLeds < 2 ^ c.params.idxW)

/-- REF-A of `95_test_vectors.md` with `MAX_LEDS = 4`. -/
def Config.refA : Config := Params.build
  { order := .grb, hasWhite := false, maxLeds := 4, clkHz := 84000000, periodNs := 1250, t0hNs := 400,
    t1hNs := 800, pauseNs := 50000, w := 16, idxW := 16 }

/-- REF-B of `95_test_vectors.md` with `MAX_LEDS = 4`. -/
def Config.refB : Config := Params.build
  { order := .rgb, hasWhite := true, maxLeds := 4, clkHz := 84000000, periodNs := 1250, t0hNs := 300,
    t1hNs := 600, pauseNs := 80000, w := 16, idxW := 16 }

/-- REF-C of `95_test_vectors.md` with `MAX_LEDS = 4`: small enough to follow tick by tick. -/
def Config.refC : Config := Params.build
  { order := .grb, hasWhite := false, maxLeds := 4, clkHz := 4000000, periodNs := 1250, t0hNs := 400,
    t1hNs := 800, pauseNs := 50000, w := 16, idxW := 16 }

end Sys2Proof
end

