-- ==== Sys2Proof/Machine/State.lean ====
section
/-! DEFINITION. The state of the block as plain data (`10_state.md` R20 to R46), the reasons a step can stop
(`60_exceptions.md` R255, R256), and the state at hardware reset (R52, `70_reset_and_hazards.md` R290). -/

namespace Sys2Proof.Machine

/-- Why the machine stops with a fault. The first two are R255's closed list. -/
inductive Fault where
  /-- Raised by `slot`, and by the beat inside `tick`: the beat would raise an interrupt flag while one is still
  pending (R197). Safe: the chip streams on with stale data (R255). -/
  | refillOverrun
  /-- Raised by any step that reads an element holding no value (R21). Safe: the chip reads what was there (R255). -/
  | readUnspecified
  /-- The model's own: raised by an access outside a memory's index range, which R62 requires never to happen
  (log 14). Safe: it stops. -/
  | indexOutOfSpace
  deriving DecidableEq, Repr

/-- Why the spec gives a request no meaning. The second to fifth are R256's closed list. -/
inductive Refusal where
  /-- Raised by an arm of `exec` whose instruction has no meaning in the model; no arm does. Safe. -/
  | notModelled (mnemonic : String)
  /-- Raised by a command other than `init` while `initialised = 0` (R104, R258). Safe. -/
  | notInitialised
  /-- Raised by `init` while `initialised = 1` (R104, R292). Safe. -/
  | alreadyInitialised
  /-- Raised by any of the four commands issued from interrupt context (R105, R272). Safe. -/
  | commandFromInterrupt
  /-- Raised by every step of a configuration that breaks R11 (R251 class a). Safe. -/
  | badConfiguration
  /-- Raised by `step`: the request's bytes are no row of the opcode table (R100, R107, R110). Safe. -/
  | undecodable (why : DecodeError)
  /-- Raised by `step`: an operand is one the build cannot express (R99, R106), or the LED word is another variant's
  (R96; log 19). Safe. -/
  | illFormed
  deriving DecidableEq, Repr

/-- A state element of R21: it is either unspecified, which is to hold no value, or it holds one. This is the
spec's own state, and a model "must not pick zero for an unspecified element" (R21; log 1). -/
inductive Elem (α : Type) where
  | unspecified
  | val (v : α)
  deriving DecidableEq, Repr

/-- Which of the two LED buffers (R22, R23). -/
inductive BufId where
  | b0
  | b1
  deriving DecidableEq, Repr

/-- `1 - b` on buffer numbers (R23). -/
def BufId.other : BufId → BufId
  | .b0 => .b1
  | .b1 => .b0

/-- The state machine's states (R31, R190). -/
inductive Fsm where
  | idle
  | armed
  | streaming
  | draining
  deriving DecidableEq, Repr

/-- The output mode of the data pin (R42). -/
inductive OutMode where
  | unconfigured
  | pushPull
  | openDrain
  deriving DecidableEq, Repr

/-- Which way the DMA moves (R41). -/
inductive DmaDirection where
  | memoryToPeripheral
  deriving DecidableEq, Repr

/-- What requests a beat (R41, R147). -/
inductive DmaRequest where
  | timerUpdate
  deriving DecidableEq, Repr

/-- The DMA configuration (R41), constant from `init` on: source `scratch`, destination `ccr`. -/
structure DmaConf where
  direction : DmaDirection
  sourceIncrements : Bool
  circular : Bool
  length : Nat
  destinationFixed : Bool
  widthBits : Nat
  request : DmaRequest
  halfTransferIrq : Bool
  transferCompleteIrq : Bool
  deriving DecidableEq, Repr

/-- A memory of R60: its elements by index, an unlisted one being unspecified (R21). Canonical form
(`Memory.wf`): indexes strictly rising. -/
abbrev Memory (α : Type) := List (Nat × α)

/-- How an operation is asked for (log 3). -/
inductive Operation where
  /-- By the bytes of a row of the opcode table (R92, R94, R110). -/
  | word (bytes : List Byte)
  /-- By a call with named operands, as the document gives every operation (R99, R108). Its operands have the whole
  range of R99, where field `a` of a word has the 16 bits of the default `IDX_W` (R110; log 22). -/
  | call (i : Instr)
  deriving DecidableEq, Repr

/-- One request of the script: an operation and the context that issues it (R270, R271; log 20). -/
structure Request where
  issuer : Context
  operation : Operation
  deriving DecidableEq, Repr

/-- The state. Fields up to `frames` are the spec's (R22 to R46), named as it names them; the ones after it are the
model's own. -/
structure State where
  /-- `buf[0]` and `buf[1]` (R22). -/
  buf0 : Memory Color
  buf1 : Memory Color
  /-- The hardware-owned buffer (R23). -/
  active : Elem BufId
  /-- The Circular Scratch Buffer (R24). -/
  scratch : Memory CompareWord
  /-- The streaming cursor (R25 to R29). -/
  wrPos : Elem Nat
  ledOff : Elem Nat
  pos : Elem Nat
  total : Elem Nat
  nCur : Elem Nat
  /-- The busy flag (R30) and the state machine (R31). -/
  busy : Bool
  fsm : Fsm
  /-- The prescaler (R32): hard-wired, its type has the one value 0. -/
  psc : Fin 1
  /-- The timer (R33 to R36). -/
  arr : Elem Nat
  cnt : Elem Nat
  ccr : Elem CompareWord
  timEn : Bool
  /-- The DMA channel and its two interrupt flags (R37 to R41). -/
  dmaEn : Bool
  dmaIdx : Elem Nat
  htFlag : Bool
  tcFlag : Bool
  dmaConf : Elem DmaConf
  /-- The pin's output mode (R42). -/
  outMode : OutMode
  /-- Bookkeeping (R44, R45) and the observation (R46). -/
  initialised : Bool
  fault : Option Fault
  wire : List CompareWord
  frames : List (List CompareWord)
  /-- The configuration record (R6 to R11): a parameter of the step relation (R20); no step changes it (log 5). -/
  cfg : Config
  /-- The requests still to be taken: APP's program and the interleaving (R20; log 3). -/
  script : List Request
  /-- APP waits at a `refresh` with this operand (R232, R257; log 6). -/
  held : Option Nat
  /-- The context that issues the step being taken (R270; log 7). -/
  issuer : Context
  /-- How many free bits ENV has supplied (R231; log 8). -/
  draws : Nat
  /-- The compare values the last pure row stands for (R175, R92, R94; log 9). -/
  ret : List CompareWord
  /-- The levels `tick` has emitted since the last `arm` (R143; log 11). -/
  levels : List Level
  deriving DecidableEq, Repr

/-- Hardware reset of a block built with `cfg` (R52, R290), with nothing requested. -/
def State.resetWith (cfg : Config) : State where
  buf0 := []
  buf1 := []
  active := .unspecified
  scratch := []
  wrPos := .unspecified
  ledOff := .unspecified
  pos := .unspecified
  total := .unspecified
  nCur := .unspecified
  busy := false
  fsm := .idle
  psc := 0
  arr := .unspecified
  cnt := .unspecified
  ccr := .unspecified
  timEn := false
  dmaEn := false
  dmaIdx := .unspecified
  htFlag := false
  tcFlag := false
  dmaConf := .unspecified
  outMode := .unconfigured
  initialised := false
  fault := none
  wire := []
  frames := []
  cfg := cfg
  script := []
  held := none
  issuer := .thread
  draws := 0
  ret := []
  levels := []

/-- The machine right after reset. The spec fixes no configuration: the one here is REF-A with `MAX_LEDS = 4`
(DESIGN CHOICE, log 5). -/
def State.reset : State := State.resetWith Config.refA

end Sys2Proof.Machine
end

