-- ==== Sys2Proof/Machine/Ops.lean ====
section
/-! DEFINITION. The named operations over memories and registers (`20_memory.md` R62), the guards every step
passes (`60_exceptions.md` R255, R256), and taking and leaving an interrupt (R266, R267). -/

namespace Sys2Proof.Machine

/-- Read a register. "A step that reads an unspecified element has no defined result: `raise
Fault(ReadUnspecified)`" (R21, and the table of faults, R255). -/
def Elem.read {α : Type} : Elem α → Except Fault α
  | .unspecified => .error .readUnspecified
  | .val v => .ok v

/-- The element a memory lists at an index, if it lists one. -/
def Memory.read {α : Type} : Memory α → Nat → Option α
  | [], _ => none
  | (k, v) :: m, i => if k = i then some v else Memory.read m i

/-- Replace element `i`, keeping the indexes strictly rising. -/
def Memory.write {α : Type} : Memory α → Nat → α → Memory α
  | [], i, v => [(i, v)]
  | (k, u) :: m, i, v =>
    if i < k then (i, v) :: (k, u) :: m else if i = k then (i, v) :: m else (k, u) :: Memory.write m i v

/-- Replace the elements from `base` on by a run of values, in index order. -/
def Memory.writeRun {α : Type} : Memory α → Nat → List α → Memory α
  | m, _, [] => m
  | m, base, v :: vs => Memory.writeRun (Memory.write m base v) (base + 1) vs

/-- Elements `0 .. n-1`, if all of them hold a value. -/
def Memory.readUpTo {α : Type} (m : Memory α) : Nat → Option (List α)
  | 0 => some []
  | n + 1 =>
    match Memory.readUpTo m n, Memory.read m n with
    | some vs, some v => some (vs ++ [v])
    | _, _ => none

/-- The listed indexes rise strictly, the first being at least `low`. -/
def Memory.risesFrom {α : Type} : Nat → Memory α → Bool
  | _, [] => true
  | low, (k, _) :: m => decide (low ≤ k) && Memory.risesFrom (k + 1) m

/-- The canonical form: indexes strictly rising. (No entry can equal what an unlisted element reads as: that is no
value at all.) -/
def Memory.wf {α : Type} (m : Memory α) : Bool := Memory.risesFrom 0 m

/-- Every listed index is inside a space of `size` elements. -/
def Memory.within {α : Type} (size : Nat) (m : Memory α) : Bool := m.all fun e => decide (e.1 < size)

/-- `MemRead(space, i)` (R62): `i` inside the space; "`MemRead` of an unspecified element is `raise
Fault(ReadUnspecified)`". -/
def memRead {α : Type} (size : Nat) (m : Memory α) (i : Nat) : Except Fault α :=
  if i < size then
    match m.read i with
    | some v => .ok v
    | none => .error .readUnspecified
  else .error .indexOutOfSpace

/-- `MemWrite(space, i, v)` (R62): `i` inside the space. -/
def memWrite {α : Type} (size : Nat) (m : Memory α) (i : Nat) (v : α) : Except Fault (Memory α) :=
  if i < size then .ok (m.write i v) else .error .indexOutOfSpace

/-- `MemWrite` at `base, base + 1, ...`, all of them inside the space. -/
def memWriteRun {α : Type} (size : Nat) (m : Memory α) (base : Nat) (vs : List α) : Except Fault (Memory α) :=
  if base + vs.length ≤ size then .ok (m.writeRun base vs) else .error .indexOutOfSpace

/-- `MemRead` at `0, 1, ..., size-1` (R62), which faults where one of them would. -/
def memReadAll {α : Type} (size : Nat) (m : Memory α) : Except Fault (List α) :=
  match m.readUpTo size with
  | some vs => .ok vs
  | none => .error .readUnspecified

/-- LED buffer `b` (R22). -/
def State.buf (s : State) : BufId → Memory Color
  | .b0 => s.buf0
  | .b1 => s.buf1

/-- Replace LED buffer `b`. -/
def State.setBuf (s : State) (b : BufId) (m : Memory Color) : State :=
  match b with
  | .b0 => { s with buf0 := m }
  | .b1 => { s with buf1 := m }

/-- `MAX_LEDS` (R7) of the block's build. -/
def State.maxLeds (s : State) : Nat := s.cfg.params.maxLeds

/-- The DMA configuration `init` writes (R41). -/
def dmaConfOf (c : Config) : DmaConf where
  direction := .memoryToPeripheral
  sourceIncrements := true
  circular := true
  length := c.scratchLen
  destinationFixed := true
  widthBits := c.params.w
  request := .timerUpdate
  halfTransferIrq := true
  transferCompleteIrq := true

/-- A step's result as the host's outcome: `raise Fault(reason)` ends the run in a fault (`00_scope.md` section 6). -/
def settle : Except Fault State → Host.Outcome State Fault Refusal
  | .ok s => .next s
  | .error r => .fault r

/-- What every step passes first: a record that breaks R11 is no configuration (R251), and no step is enabled in a
faulted state (R255; the fault is sticky, R45). -/
def live (s : State) (k : Host.Outcome State Fault Refusal) : Host.Outcome State Fault Refusal :=
  if s.cfg.valid = true then
    match s.fault with
    | none => k
    | some r => .fault r
  else .refused .badConfiguration

/-- The step is issued from this context (R270). -/
def issuedBy (s : State) (c : Context) : Bool := decide (s.issuer = c)

/-- A command is issued in thread context only (R105, R271, R272). -/
def command (s : State) (k : Host.Outcome State Fault Refusal) : Host.Outcome State Fault Refusal :=
  live s (match s.issuer with
    | .thread => k
    | .interrupt => .refused .commandFromInterrupt)

/-- A command other than `init`: refused before `init` (R104, R258). -/
def readyCommand (s : State) (k : Host.Outcome State Fault Refusal) : Host.Outcome State Fault Refusal :=
  command s (if s.initialised = true then k else .refused .notInitialised)

/-- A step that is not enabled is not taken: nothing changes (log 15). -/
def whenEnabled (enabled : Bool) (s : State) (k : Host.Outcome State Fault Refusal) :
    Host.Outcome State Fault Refusal :=
  live s (if enabled = true then k else .next s)

/-- Taking an interrupt (R266): no register of the block is saved, banked or altered; the service's first action
clears its own flag (R199, R262). -/
def State.enterService (s : State) : IrqSource → State
  | .halfTransfer => { s with htFlag := false }
  | .transferComplete => { s with tcFlag := false }

/-- Returning from an interrupt (R267): nothing is restored, because entry changed nothing. -/
def State.leaveService (s : State) : State := s

end Sys2Proof.Machine
end

