-- ==== Sys2Proof/Machine/Operands.lean ====
section
/-! DEFINITION. The operand forms: the index that is ignored out of range and the count that is clamped
(`20_memory.md` R66, `30_encoding.md` R101, R102), and the assembly of a colour operand into its channels in wire
order and its serial bits (R92, R93). -/

namespace Sys2Proof.Machine

/-- `set_led`'s index names an entry only below `MAX_LEDS` (R66 a, R101). -/
def indexInRange (s : State) (index : Nat) : Bool := decide (index < s.maxLeds)

/-- A count above `MAX_LEDS` is clamped to it (R66 b, R102). -/
def clampCount (s : State) (count : Nat) : Nat := min count s.maxLeds

/-- `CH` (R93): the channels of a Color Value in wire order; white last, when the build has it (R92). -/
def channels (c : Config) (color : Color) : List Byte :=
  let rgb := match c.params.order with
    | .grb => [color.green, color.red, color.blue]
    | .rgb => [color.red, color.green, color.blue]
  if c.params.hasWhite then rgb ++ [color.white] else rgb

/-- The bits of a channel in transmission order: bit 7 first, bit 0 last (R92, R130). -/
def channelBits (v : Byte) : List Bool := [7, 6, 5, 4, 3, 2, 1, 0].map fun k => v.getLsbD k

/-- The serial bits of a sequence of channels (R90 layer 2). -/
def serialBits (chs : List Byte) : List Bool := chs.flatMap channelBits

end Sys2Proof.Machine
end

