-- ==== Sys2Proof/Machine/Flags.lean ====
section
/-! DEFINITION. Every flag computation: when an interrupt flag is raised and when raising it is a fault
(`44_streaming_engine.md` R197, R198), and the enabling condition of every step that has one (R143, R197, R199,
`45_driver_facade.md` R232), in the context `60_exceptions.md` R271 gives it. -/

namespace Sys2Proof.Machine

/-- An interrupt is pending. -/
def State.pending (s : State) : Bool := s.htFlag || s.tcFlag

/-- Raise an interrupt flag, or fault when one is still pending (R197). -/
def raiseFlag (src : IrqSource) (s : State) : Except Fault State :=
  if s.pending = true then .error .refillOverrun
  else match src with
    | .halfTransfer => .ok { s with htFlag := true }
    | .transferComplete => .ok { s with tcFlag := true }

/-- What the beat that left `dma_idx` at `idx` raises (R198): half-transfer when half the buffer is consumed,
transfer-complete when it wraps, and otherwise nothing. -/
def raiseFlags (idx : Nat) (s : State) : Except Fault State :=
  if idx = s.cfg.bpl then raiseFlag .halfTransfer s
  else if idx = 0 then raiseFlag .transferComplete s
  else .ok s

/-- `slot` is enabled when timer and DMA are (R197). -/
def slotEnabled (s : State) : Bool := s.timEn && s.dmaEn

/-- `tick` is enabled when the timer is (R143). -/
def tickEnabled (s : State) : Bool := s.timEn

/-- The interrupt flag of a source (R39, R40). -/
def pendingFlag (s : State) : IrqSource → Bool
  | .halfTransfer => s.htFlag
  | .transferComplete => s.tcFlag

/-- A service is enabled in interrupt context when its flag is pending, and never in thread context (R199, R271). -/
def serviceEnabled (s : State) (src : IrqSource) : Bool := pendingFlag s src && issuedBy s .interrupt

/-- Inside `refresh` (R195, R271): thread context, no frame in flight, and `pos` reset. Between two steps `pos` is
`total` while no frame is in flight (R201, R202), so no run has such a state there (log 12). -/
def insideRefresh (s : State) : Bool :=
  issuedBy s .thread && s.initialised && !s.busy && decide (s.pos = .val 0)

/-- Inside a service (R200, R201, R271): interrupt context, a frame in flight, and `pos` advanced past the half at
`wr_pos`. Between two steps `wr_pos` is `pos mod SCRATCH_LEN` while a frame is in flight (R194, R213), so no run has
such a state there (log 12). -/
def insideService (s : State) : Bool :=
  issuedBy s .interrupt && s.busy &&
    match s.pos, s.wrPos with
    | .val p, .val w => decide (w ≠ p % s.cfg.scratchLen)
    | _, _ => false

/-- `fill_half` is enabled inside `refresh` and inside a service (R271). -/
def fillEnabled (s : State) : Bool := insideRefresh s || insideService s

/-- The cursor is as `prefill` leaves it: "After `prefill`, `wr_pos = 0`, `led_off = min(n, 2)`, `pos = 0`" (R195). -/
def prefilled (s : State) : Bool :=
  match s.ledOff, s.nCur with
  | .val led, .val n => decide (led = min n 2 ∧ s.wrPos = .val 0 ∧ s.pos = .val 0)
  | _, _ => false

/-- `arm` is enabled inside `refresh`, as its last action, after `prefill` (R196, R271). -/
def armEnabled (s : State) : Bool := insideRefresh s && prefilled s

/-- `disarm` is enabled inside the final `on_complete`: `pos` has been advanced to `total` (R191, R201, R202, R271). -/
def disarmEnabled (s : State) : Bool :=
  insideService s &&
    match s.pos, s.total with
    | .val p, .val total => decide (total ≤ p)
    | _, _ => false

/-- `refresh` is enabled only when `busy = 0` (R232). -/
def refreshEnabled (s : State) : Bool := !s.busy

end Sys2Proof.Machine
end

