-- ==== Sys2Proof/Machine/BitEncoder.lean ====
section
/-! DEFINITION. The Bit Encoder (`43_bit_encoder.md`), the symbols and the LED word formats (`30_encoding.md` R92
to R98): the meanings of `encode`, the four LED words and the three symbols. Each is pure (R177): it changes
nothing but the model's own `ret`, which holds the compare values it stands for (log 9). -/

namespace Sys2Proof.Machine

/-- The compare value of a symbol (R94). -/
def symbolCompare (c : Config) : Symbol → CompareWord
  | .bit0 => c.table.t0h
  | .bit1 => c.table.t1h
  | .pause => 0

/-- The symbol of a serial bit (R94). -/
def bitSymbol (b : Bool) : Symbol := if b then .bit1 else .bit0

/-- The compare run of serial bits (R90 layer 3, R94). -/
def compareRun (c : Config) (bits : List Bool) : List CompareWord := bits.map fun b => symbolCompare c (bitSymbol b)

/-- `encode(c)` (R175). -/
def encodeColor (c : Config) (color : Color) : List CompareWord := compareRun c (serialBits (channels c color))

/-- The symbol a compare value stands for (R95); any other value is reserved. -/
def compareSymbol (c : Config) (v : CompareWord) : Option Symbol :=
  if v = 0 then some .pause
  else if v = c.table.t0h then some .bit0
  else if v = c.table.t1h then some .bit1
  else none

/-- Give back the compare values a pure row stands for. -/
def answer (run : List CompareWord) (s : State) : Host.Outcome State Fault Refusal :=
  live s (.next { s with ret := run })

/-- `encode` (R175, R177). -/
def execEncode (color : Color) (s : State) : Host.Outcome State Fault Refusal :=
  answer (encodeColor s.cfg color) s

/-- `LEDWORD_GRB24` (R92): green, red, blue, each bit 7 first. -/
def execLedwordGrb24 (green red blue : Byte) (s : State) : Host.Outcome State Fault Refusal :=
  answer (compareRun s.cfg (serialBits [green, red, blue])) s

/-- `LEDWORD_RGB24` (R92): red, green, blue, each bit 7 first. -/
def execLedwordRgb24 (red green blue : Byte) (s : State) : Host.Outcome State Fault Refusal :=
  answer (compareRun s.cfg (serialBits [red, green, blue])) s

/-- `LEDWORD_GRBW32` (R92): green, red, blue, white, each bit 7 first. -/
def execLedwordGrbw32 (green red blue white : Byte) (s : State) : Host.Outcome State Fault Refusal :=
  answer (compareRun s.cfg (serialBits [green, red, blue, white])) s

/-- `LEDWORD_RGBW32` (R92): red, green, blue, white, each bit 7 first. -/
def execLedwordRgbw32 (red green blue white : Byte) (s : State) : Host.Outcome State Fault Refusal :=
  answer (compareRun s.cfg (serialBits [red, green, blue, white])) s

/-- `SYM_BIT0` (R94). -/
def execSymBit0 (s : State) : Host.Outcome State Fault Refusal := answer [symbolCompare s.cfg .bit0] s

/-- `SYM_BIT1` (R94). -/
def execSymBit1 (s : State) : Host.Outcome State Fault Refusal := answer [symbolCompare s.cfg .bit1] s

/-- `SYM_PAUSE` (R94). -/
def execSymPause (s : State) : Host.Outcome State Fault Refusal := answer [symbolCompare s.cfg .pause] s

/-- The compare run of LED `i` of a buffer: nothing where the buffer holds no value. -/
def ledRun (c : Config) (m : Memory Color) (i : Nat) : List CompareWord :=
  match m.read i with
  | some color => encodeColor c color
  | none => []

/-- `frame(B, n)` (R98): the LEDs' compare runs in index order, then the pause. -/
def frame (c : Config) (m : Memory Color) (n : Nat) : List CompareWord :=
  (List.range n).flatMap (ledRun c m) ++ List.replicate (c.pauseSlots n) 0

/-- The compare value at position `p` of the frame of `n` LEDs, its pause going on for ever (R98, R206). -/
def frameValue (c : Config) (m : Memory Color) (n p : Nat) : CompareWord :=
  if p < n * c.bpl then (ledRun c m (p / c.bpl)).getD (p % c.bpl) 0 else 0

end Sys2Proof.Machine
end

