-- ==== Sys2Proof/Machine/Streaming.lean ====
section
/-! DEFINITION. The DMA Streaming Engine (`44_streaming_engine.md`): `fill_half`, `prefill`, `arm`, the beat and
`slot`, the two interrupt services, `disarm`. -/

namespace Sys2Proof.Machine

/-- The write position of the other half (R25, R194). -/
def toggledWrPos (c : Config) (w : Nat) : Nat := (w + c.bpl) % c.scratchLen

/-- The zero-fill of R193 enters `Draining` from `Streaming` only (R191). -/
def drained : Fsm → Fsm
  | .streaming => .draining
  | .idle => .idle
  | .armed => .armed
  | .draining => .draining

/-- `fill_half()` with its LED still to send (R193, first branch; R81). -/
def fillWithLed (w led : Nat) (s : State) : Except Fault State := do
  let a ← s.active.read
  let color ← memRead s.maxLeds (s.buf a) led
  let m ← memWriteRun s.cfg.scratchLen s.scratch w (encodeColor s.cfg color)
  .ok { s with scratch := m, ledOff := .val (led + 1), wrPos := .val (toggledWrPos s.cfg w) }

/-- `fill_half()` once the LEDs are exhausted (R193, second branch). -/
def fillWithZeros (w : Nat) (s : State) : Except Fault State := do
  let m ← memWriteRun s.cfg.scratchLen s.scratch w (List.replicate s.cfg.bpl 0)
  .ok { s with scratch := m, fsm := drained s.fsm, wrPos := .val (toggledWrPos s.cfg w) }

/-- `fill_half()` (R193). -/
def fillHalf (s : State) : Except Fault State := do
  let led ← s.ledOff.read
  let n ← s.nCur.read
  let w ← s.wrPos.read
  if led < n then fillWithLed w led s else fillWithZeros w s

/-- The cursor `prefill(n)` starts from (R195). -/
def State.startCursor (s : State) (n : Nat) : State :=
  { s with nCur := .val n, total := .val (s.cfg.frameLen n), pos := .val 0, ledOff := .val 0, wrPos := .val 0 }

/-- `prefill(n)` (R195): reset the cursor, fill both halves. -/
def prefill (n : Nat) (s : State) : Except Fault State := do
  let s1 ← fillHalf (s.startCursor n)
  fillHalf s1

/-- `arm()` (R196). The emitted levels start anew with the trace (log 11). -/
def State.armed (s : State) : State :=
  { s with dmaIdx := .val 0, htFlag := false, tcFlag := false, cnt := .val 0, wire := [], busy := true,
           dmaEn := true, timEn := true, fsm := .armed, levels := [] }

/-- `disarm()` (R202). -/
def State.disarmed (s : State) : State :=
  { s with dmaEn := false, timEn := false, frames := s.frames ++ [s.wire], busy := false, fsm := .idle }

/-- The first beat of a frame enters `Streaming` (R191, R197). -/
def started : Fsm → Fsm
  | .armed => .streaming
  | .idle => .idle
  | .streaming => .streaming
  | .draining => .draining

/-- A beat that loads `v` and leaves `dma_idx` at `next` (R80, R197), before any flag is raised. -/
def State.loaded (s : State) (v : CompareWord) (next : Nat) : State :=
  { s with ccr := .val v, wire := s.wire ++ [v], dmaIdx := .val next, fsm := started s.fsm }

/-- One DMA beat (R197 from its second line on; R80). -/
def beat (s : State) : Except Fault State := do
  let idx ← s.dmaIdx.read
  let v ← memRead s.cfg.scratchLen s.scratch idx
  let next := (idx + 1) % s.cfg.scratchLen
  raiseFlags next (s.loaded v next)

/-- The interrupt taken and the half just consumed acknowledged, with the cursor at `p` before (R200, R201, R213). -/
def State.acknowledged (s : State) (src : IrqSource) (p : Nat) : State :=
  { s.enterService src with pos := .val (p + s.cfg.bpl) }

/-- Both services start so (R200, R201). -/
def acknowledge (src : IrqSource) (s : State) : Except Fault State := do
  let p ← s.pos.read
  .ok (s.acknowledged src p)

/-- The body of `on_half_transfer()` (R200). -/
def serveHalfTransfer (s : State) : Except Fault State := do
  let s1 ← acknowledge .halfTransfer s
  let s2 ← fillHalf s1
  .ok s2.leaveService

/-- With `pos` advanced, `on_complete()` refills the second half, or disarms at the end of the frame (R201). -/
def refillOrDisarm (s : State) : Except Fault State := do
  let p ← s.pos.read
  let t ← s.total.read
  if p < t then fillHalf s else .ok s.disarmed

/-- The body of `on_complete()` (R201). -/
def serveComplete (s : State) : Except Fault State := do
  let s1 ← acknowledge .transferComplete s
  let s2 ← refillOrDisarm s1
  .ok s2.leaveService

/-- `slot` (R197): one PWM period and its DMA beat. Taken in the middle of a period that `tick` has begun, it takes the
beat and leaves `cnt` as it is: the model's choice (R148 gives the two granularities as alternatives; log 21). -/
def execSlot (s : State) : Host.Outcome State Fault Refusal := whenEnabled (slotEnabled s) s (settle (beat s))

/-- `on_half_transfer` (R200), in interrupt context (R271; log 20). -/
def execOnHalfTransfer (s : State) : Host.Outcome State Fault Refusal :=
  whenEnabled (serviceEnabled s .halfTransfer) s (settle (serveHalfTransfer s))

/-- `on_complete` (R201), in interrupt context (R271; log 20). -/
def execOnComplete (s : State) : Host.Outcome State Fault Refusal :=
  whenEnabled (serviceEnabled s .transferComplete) s (settle (serveComplete s))

/-- `fill_half` (R193), where its callers call it (R271; log 12). -/
def execFillHalf (s : State) : Host.Outcome State Fault Refusal := whenEnabled (fillEnabled s) s (settle (fillHalf s))

/-- `arm` (R196), where `refresh` calls it (R271; log 12). -/
def execArm (s : State) : Host.Outcome State Fault Refusal := whenEnabled (armEnabled s) s (.next s.armed)

/-- `disarm` (R202), where the final `on_complete` calls it (R271; log 12). -/
def execDisarm (s : State) : Host.Outcome State Fault Refusal := whenEnabled (disarmEnabled s) s (.next s.disarmed)

end Sys2Proof.Machine
end

