-- ==== Sys2Proof/Machine/Carrier.lean ====
section
/-! DEFINITION. The PWM carrier (`41_pwm_carrier.md`): the output function, the shape of a pulse, the waveform of a
trace, and the tick-level step. -/

namespace Sys2Proof.Machine

/-- `line_level(cnt, ccr)` (R144). -/
def lineLevel (timEn : Bool) (cnt ccr : Nat) : Level :=
  if timEn = true ∧ cnt < ccr then .high else .low

/-- The level of the data wire (R43, R144): low while the timer is off; before `init` the pin is not configured and
the level is unspecified (R290, U11). -/
def State.line (s : State) : Elem Level :=
  if s.initialised = true then
    if s.timEn = true then
      match s.cnt, s.ccr with
      | .val cnt, .val ccr => .val (lineLevel true cnt ccr)
      | _, _ => .unspecified
    else .val .low
  else .unspecified

/-- What the pin does to the wire (R150). -/
inductive Drive where
  | low
  | high
  | released
  deriving DecidableEq, Repr

/-- How the pin makes a level (R43, R150): `PushPull` drives both levels, `OpenDrain` drives low and releases for high.
Before `init` the pin is not configured (R290, U11). -/
def driveFor : OutMode → Level → Elem Drive
  | .pushPull, .low => .val .low
  | .pushPull, .high => .val .high
  | .openDrain, .low => .val .low
  | .openDrain, .high => .val .released
  | .unconfigured, _ => .unspecified

/-- What the pin does now (R150). -/
def State.drive (s : State) : Elem Drive :=
  match s.line with
  | .val level => driveFor s.outMode level
  | .unspecified => .unspecified

/-- The level a pin that does this gives the wire: a released wire is raised by the external pull-up resistor (R150),
and with none wired it never goes high (R309). -/
def wireLevel (pullUp : Bool) : Drive → Level
  | .low => .low
  | .high => .high
  | .released => if pullUp then .high else .low

/-- A slot played with compare value `v` (R145): `v` ticks high, then low to the end of the period. -/
def pulse (c : Config) (v : CompareWord) : List Level :=
  List.replicate v .high ++ List.replicate (c.table.periodTicks + 1 - v) .low

/-- The waveform of a completed trace from arming on (R146): one lead-in slot with compare value 0, then one slot for
each value but the last. -/
def waveform (c : Config) (trace : List CompareWord) : List Level :=
  pulse c 0 ++ trace.dropLast.flatMap (pulse c)

/-- The update event (R147): one beat if the DMA is enabled. -/
def updateEvent (s : State) : Except Fault State := if s.dmaEn = true then beat s else .ok s

/-- The body of `tick` (R143). -/
def tickBody (s : State) : Except Fault State := do
  let cnt ← s.cnt.read
  let ccr ← s.ccr.read
  let arr ← s.arr.read
  let emitted := { s with levels := s.levels ++ [lineLevel s.timEn cnt ccr] }
  if cnt = arr then updateEvent { emitted with cnt := .val 0 } else .ok { emitted with cnt := .val (cnt + 1) }

/-- `tick` (R143). -/
def execTick (s : State) : Host.Outcome State Fault Refusal := whenEnabled (tickEnabled s) s (settle (tickBody s))

end Sys2Proof.Machine
end

