-- ==== Sys2Proof/Machine/Facade.lean ====
section
/-! DEFINITION. The Driver Façade (`45_driver_facade.md`): `init` and `refresh`; and the Color Buffer Pair's fill,
which `init` and `set_all_leds` share (`42_color_buffer.md` R161). -/

namespace Sys2Proof.Machine

/-- Write the writable buffer `buf[1 - active]` (R163) from entry `base` on. -/
def writeWritable (base : Nat) (colors : List Color) (s : State) : Except Fault State := do
  let a ← s.active.read
  let m ← memWriteRun s.maxLeds (s.buf a.other) base colors
  .ok (s.setBuf a.other m)

/-- The fill of `set_all_leds` (R161): `min(count, MAX_LEDS)` entries of the writable buffer. -/
def fillAll (color : Color) (count : Nat) (s : State) : Except Fault State :=
  writeWritable 0 (List.replicate (clampCount s count) color) s

/-- Swap buffer ownership (R233). -/
def swapBuffers (s : State) : Except Fault State := do
  let a ← s.active.read
  .ok { s with active := .val a.other }

/-- Copy the hardware-owned buffer forward into the writable one, all `MAX_LEDS` entries (R74, R234). -/
def copyForward (s : State) : Except Fault State := do
  let a ← s.active.read
  let colors ← memReadAll s.maxLeds (s.buf a)
  writeWritable 0 colors s

/-- `refresh(n_leds)` when `busy = 0` (R233): clamp, swap, copy forward, prefill, arm. -/
def refreshNow (nLeds : Nat) (s : State) : Except Fault State := do
  let s1 ← swapBuffers s
  let s2 ← copyForward s1
  let s3 ← prefill (clampCount s nLeds) s2
  .ok s3.armed

/-- APP waits at `refresh(n_leds)`, and nothing else changes (R232, R257; log 6). -/
def State.waitingAt (s : State) (nLeds : Nat) : State := { s with held := some nLeds }

/-- `refresh(n_leds)` (R232, R233): taken when `busy = 0`, and APP goes on; otherwise APP waits at it and nothing else
changes (the hold `RefreshBusy`, R257; log 6). -/
def refreshOrHold (nLeds : Nat) (s : State) : Host.Outcome State Fault Refusal :=
  if refreshEnabled s = true then settle (refreshNow nLeds { s with held := none })
  else .next (s.waitingAt nLeds)

/-- The mode a pin sample selects (R231). -/
def outModeOf (sample : Bool) : OutMode := if sample then .openDrain else .pushPull

/-- Steps 1 to 4 of `init` (R230): pull-up detection with ENV's next free bit, timer (R142), DMA (R41), driver state. -/
def State.initHardware (s : State) : State :=
  { s with
    outMode := outModeOf (Config.pinSample s.draws), draws := s.draws + 1,
    arr := .val s.cfg.table.periodTicks, ccr := .val 0, cnt := .val 0, timEn := false,
    dmaConf := .val (dmaConfOf s.cfg), dmaEn := false, htFlag := false, tcFlag := false, dmaIdx := .val 0,
    active := .val .b0, busy := false, fsm := .idle, wire := [], frames := [], initialised := true }

/-- The body of `init` (R230), with step 5: `set_all_leds(black, MAX_LEDS, 1)`. -/
def initBody (s : State) : Except Fault State := do
  let s1 ← fillAll Color.black s.maxLeds s.initHardware
  refreshNow s.maxLeds s1

/-- `init` (R230). -/
def execInit (s : State) : Host.Outcome State Fault Refusal :=
  command s (if s.initialised = true then .refused .alreadyInitialised else settle (initBody s))

/-- `refresh` (R233). -/
def execRefresh (nLeds : Nat) (s : State) : Host.Outcome State Fault Refusal := readyCommand s (refreshOrHold nLeds s)

end Sys2Proof.Machine
end

