-- ==== Sys2Proof/Machine/ColorBuffer.lean ====
section
/-! DEFINITION. The Color Buffer Pair's commands (`42_color_buffer.md`): `set_led` and `set_all_leds`. -/

namespace Sys2Proof.Machine

/-- The body of `set_led` (R160): an index at or above `MAX_LEDS` changes nothing (R101). -/
def setLedBody (index : Nat) (color : Color) (s : State) : Except Fault State :=
  if indexInRange s index = true then writeWritable index [color] s else .ok s

/-- `set_led` (R160). -/
def execSetLed (index : Nat) (color : Color) (s : State) : Host.Outcome State Fault Refusal :=
  readyCommand s (settle (setLedBody index color s))

/-- The body of `set_all_leds` (R161): the fill, and with the flag set APP stands at `refresh(count)`, "a separate
step" that it takes when `busy = 0` like any other (log 17). -/
def setAllLedsBody (color : Color) (count : Nat) (refreshFlag : Bool) (s : State) : Except Fault State := do
  let filled ← fillAll color count s
  .ok (if refreshFlag = true then filled.waitingAt count else filled)

/-- `set_all_leds` (R161). -/
def execSetAllLeds (color : Color) (count : Nat) (refreshFlag : Bool) (s : State) : Host.Outcome State Fault Refusal :=
  readyCommand s (settle (setAllLedsBody color count refreshFlag s))

end Sys2Proof.Machine
end

