-- ==== Sys2Proof/Machine/Dispatch.lean ====
section
/-! DEFINITION. One arm per constructor of `Instr`, each one direct call of its meaning. -/

namespace Sys2Proof.Machine

def exec (i : Instr) (s : State) : Host.Outcome State Fault Refusal :=
  match i with
  -- the four commands (APP)
  | .init => Sys2Proof.Machine.execInit s
  | .setLed index color => Sys2Proof.Machine.execSetLed index color s
  | .setAllLeds color count refreshFlag => Sys2Proof.Machine.execSetAllLeds color count refreshFlag s
  | .refresh nLeds => Sys2Proof.Machine.execRefresh nLeds s
  -- the hardware events (ENG) and the interrupt services (IRQ)
  | .slot => Sys2Proof.Machine.execSlot s
  | .onHalfTransfer => Sys2Proof.Machine.execOnHalfTransfer s
  | .onComplete => Sys2Proof.Machine.execOnComplete s
  | .tick => Sys2Proof.Machine.execTick s
  -- the procedures
  | .encode color => Sys2Proof.Machine.execEncode color s
  | .fillHalf => Sys2Proof.Machine.execFillHalf s
  | .arm => Sys2Proof.Machine.execArm s
  | .disarm => Sys2Proof.Machine.execDisarm s
  -- the wire formats and symbols
  | .ledwordGrb24 green red blue => Sys2Proof.Machine.execLedwordGrb24 green red blue s
  | .ledwordRgb24 red green blue => Sys2Proof.Machine.execLedwordRgb24 red green blue s
  | .ledwordGrbw32 green red blue white => Sys2Proof.Machine.execLedwordGrbw32 green red blue white s
  | .ledwordRgbw32 red green blue white => Sys2Proof.Machine.execLedwordRgbw32 red green blue white s
  | .symBit0 => Sys2Proof.Machine.execSymBit0 s
  | .symBit1 => Sys2Proof.Machine.execSymBit1 s
  | .symPause => Sys2Proof.Machine.execSymPause s

end Sys2Proof.Machine
end

