-- ==== Sys2Proof/Machine/Schedule.lean ====
section
/-! DEFINITION. Which agent moves next (`00_scope.md` R12, `20_memory.md` R70): the next request of the script, and,
where no request can be taken, the eager schedule of `44_streaming_engine.md` R205. -/

namespace Sys2Proof.Machine

/-- What the next step is. -/
inductive Action where
  /-- An operation, run in this state. -/
  | run (i : Instr) (s : State)
  /-- No agent has an enabled step: the run is finished or stuck (R214). -/
  | rest
  /-- The request has no meaning. -/
  | refuse (r : Refusal)
  deriving DecidableEq, Repr

/-- The eager schedule (R205; log 4): a pending service first, in interrupt context (R271), then a `refresh` APP waits
at, then the engine, which runs in neither context. -/
def eagerAction (s : State) : Action :=
  if pendingFlag s .halfTransfer = true then .run .onHalfTransfer { s with issuer := .interrupt }
  else if pendingFlag s .transferComplete = true then .run .onComplete { s with issuer := .interrupt }
  else match s.held, refreshEnabled s with
    | some n, true => .run (.refresh n) { s with issuer := .thread }
    | _, _ => if slotEnabled s = true then .run .slot s else .rest

/-- APP waits at a `refresh`, so no further command of its thread can be issued (R70: program order). -/
def appBlocked (s : State) (issuer : Context) (i : Instr) : Bool :=
  s.held.isSome && i.isCommand && decide (issuer = .thread)

/-- The operation a request names (log 3). -/
def requested (order : ChannelOrder) : Operation → Except DecodeError Instr
  | .word bytes => decode order bytes
  | .call i => .ok i

/-- Take the next request of the script, or go on eagerly when there is none, or when it is a command of a thread that
waits (log 3, log 4). The request's context is the one its step is issued from, whichever agent the row is of: it
decides for the rows R271 gives a context, and says nothing for the others (log 20). DESIGN CHOICE (log 16): a request
that is no operation of the build is refused before its context, `initialised` or a wait of APP is looked at. -/
def nextAction (s : State) : Action :=
  match s.script with
  | [] => eagerAction s
  | r :: rest =>
    match requested s.cfg.params.order r.operation with
    | .error e => .refuse (.undecodable e)
    | .ok i =>
      if i.wf s.cfg.params = true then
        if appBlocked s r.issuer i = true then eagerAction s
        else .run i { s with script := rest, issuer := r.issuer }
      else .refuse .illFormed

/-- The context in which a word's row is issued (R271); thread context where it is no row. -/
def issuerOf (order : ChannelOrder) (bytes : List Byte) : Context :=
  match decode order bytes with
  | .ok i => i.context
  | .error _ => .thread

/-- Put a word before all other requests, issued from its row's context, APP waiting at nothing (log 3). -/
def State.withRequest (s : State) (bytes : List Byte) : State :=
  { s with script := ⟨issuerOf s.cfg.params.order bytes, .word bytes⟩ :: s.script, held := none }

/-- The block built with the number of channels that a table word of `nbits` bits has, when it is an LED word: its
length is fixed by the build (R96; log 19). -/
def Config.builtFor (c : Config) (nbits : Nat) : Config :=
  if nbits = 24 then { c with params := { c.params with hasWhite := false } }
  else if nbits = 32 then { c with params := { c.params with hasWhite := true } }
  else c

end Sys2Proof.Machine
end

