-- ==== Sys2Proof/Machine/Step.lean ====
section
/-! DEFINITION. One step of the machine: the next action of the schedule (`Machine/Schedule.lean`), run by `exec`. -/

namespace Sys2Proof.Machine

/-- One step. Where no agent has an enabled step the state repeats: the run is finished or stuck (R214, U3). -/
def step (s : State) : Host.Outcome State Fault Refusal :=
  match nextAction s with
  | .run i s' => exec i s'
  | .rest => live s (.next s)
  | .refuse r => live s (.refused r)

/-- `s` with the table word `w` of `nbits` bits as the next request, in the build whose words have its length, so that
the very next step runs it (log 3, log 19). -/
def State.withFetchWord (s : State) (nbits w : Nat) : State :=
  ({ s with cfg := Config.builtFor s.cfg nbits } : State).withRequest (tableBytes nbits w)

end Sys2Proof.Machine
end

