-- ==== Sys2Proof/Safety.lean ====
section
/-! DEFINITION. What claims are stated in: the run that records its fault (`10_state.md` R45), the end of a run
(`44_streaming_engine.md` R214), the canonical memories, and the states of a run that begins with `init`: before it, at rest, and
with a frame in flight (`10_state.md` section 8, `44_streaming_engine.md` section 6). -/

namespace Sys2Proof.Machine

/-- The element holds a value with this property. -/
def Elem.holds {α : Type} (p : α → Bool) : Elem α → Bool
  | .unspecified => false
  | .val v => p v

/-- The state a step leaves, its fault recorded and nothing else changed (R45: sticky; log 18). A refused step leaves
the state as it was (R256: it is no step of the model). -/
def State.after (s : State) : Host.Outcome State Fault Refusal → State
  | .next t => t
  | .fault r => { s with fault := some r }
  | .refused _ => s

/-- A run is finished (R214): nothing more is issued, `fsm = Idle`, no flag is pending, no fault. -/
def State.finished (s : State) : Bool :=
  s.script.isEmpty && s.held.isNone && decide (s.fsm = .idle) && !s.pending && decide (s.fault = none)

/-- The three memories are canonical and inside their index ranges (R60 to R62). -/
abbrev MemoriesCanonical (s : State) : Prop :=
  s.buf0.wf = true ∧ s.buf1.wf = true ∧ s.scratch.wf = true ∧
  s.buf0.within s.maxLeds = true ∧ s.buf1.within s.maxLeds = true ∧ s.scratch.within s.cfg.scratchLen = true

/-- Every entry of a LED buffer holds a Color Value (R21, R22: so it is after `init`). -/
abbrev BufferFull (s : State) (b : BufId) : Prop := ∀ i, i < s.maxLeds → ((s.buf b).read i).isSome = true

/-- What `init` has set for good: both buffers written, the timer's period, the pin and the DMA configured. -/
abbrev SetUp (s : State) (a : BufId) : Prop :=
  s.initialised = true ∧ s.active = .val a ∧ BufferFull s .b0 ∧ BufferFull s .b1 ∧
  s.arr = .val s.cfg.table.periodTicks ∧ s.cnt.holds (fun c => decide (c ≤ s.cfg.table.periodTicks)) = true ∧
  s.dmaConf = .val (dmaConfOf s.cfg) ∧ s.outMode ≠ .unconfigured

/-- Before `init` (R258, R290): quiet, with nothing enabled. -/
abbrev BeforeInit (s : State) : Prop :=
  s.initialised = false ∧ s.busy = false ∧ s.fsm = .idle ∧ s.timEn = false ∧ s.dmaEn = false ∧
  s.htFlag = false ∧ s.tcFlag = false

/-- After `init`, no frame in flight; `n` is the LED count of the last frame (R190 `Idle`, R201, R202, R207). -/
abbrev AtRest (s : State) (a : BufId) (n : Nat) : Prop :=
  SetUp s a ∧ s.busy = false ∧ s.fsm = .idle ∧ s.timEn = false ∧ s.dmaEn = false ∧
  s.htFlag = false ∧ s.tcFlag = false ∧ s.ccr = .val 0 ∧
  n ≤ s.maxLeds ∧ s.nCur = .val n ∧ s.total = .val (s.cfg.frameLen n) ∧ s.pos = .val (s.cfg.frameLen n) ∧
  s.ledOff = .val n ∧ s.wrPos = .val s.cfg.bpl ∧
  s.dmaIdx.holds (fun i => decide (i < s.cfg.scratchLen)) = true ∧
  (∀ j, j < s.cfg.scratchLen → s.scratch.read j = some 0)

/-- The state machine's state with `k` beats taken and `q` services done in a frame of `n` LEDs (R190, R191). -/
def phase (n q k : Nat) : Fsm :=
  if k = 0 then .armed else if q = 0 ∨ q + 1 < n then .streaming else .draining

/-- A frame of `n` LEDs from buffer `a` in flight with `q` interrupt services done: every element of the block as the
rules of the streaming engine leave it (R47 to R50, R75, R190 to R209). `wire.length` is the number of beats. -/
abbrev InFlight (s : State) (a : BufId) (n q : Nat) : Prop :=
  SetUp s a ∧ s.busy = true ∧ s.timEn = true ∧ s.dmaEn = true ∧
  n ≤ s.maxLeds ∧ s.nCur = .val n ∧ s.total = .val (s.cfg.frameLen n) ∧
  s.pos = .val (q * s.cfg.bpl) ∧ q * s.cfg.bpl < s.cfg.frameLen n ∧
  s.ledOff = .val (min n (q + 2)) ∧ s.wrPos = .val (q % 2 * s.cfg.bpl) ∧
  s.dmaIdx = .val (s.wire.length % s.cfg.scratchLen) ∧
  q * s.cfg.bpl ≤ s.wire.length ∧ s.wire.length < (q + 2) * s.cfg.bpl ∧
  s.htFlag = decide ((q + 1) * s.cfg.bpl ≤ s.wire.length ∧ q % 2 = 0) ∧
  s.tcFlag = decide ((q + 1) * s.cfg.bpl ≤ s.wire.length ∧ q % 2 = 1) ∧
  s.wire = (List.range s.wire.length).map (frameValue s.cfg (s.buf a) n) ∧
  (∀ x, x < s.cfg.scratchLen →
    s.scratch.read ((q * s.cfg.bpl + x) % s.cfg.scratchLen) = some (frameValue s.cfg (s.buf a) n (q * s.cfg.bpl + x))) ∧
  s.ccr = .val (s.wire.getLastD 0) ∧ s.fsm = phase n q s.wire.length

/-- The states of a fault-free run: the memories canonical, and the block before `init`, at rest, or streaming. -/
def Inv (s : State) : Prop :=
  s.cfg.valid = true ∧ s.fault = none ∧ MemoriesCanonical s ∧
  (BeforeInit s ∨ (∃ a n, AtRest s a n) ∨ (∃ a n q, InFlight s a n q))

/-- `k` executions of one operation, stopping at the first fault or refusal. -/
def repeated (i : Instr) : Nat → State → Host.Outcome State Fault Refusal
  | 0, s => .next s
  | k + 1, s =>
    match exec i s with
    | .next t => repeated i k t
    | .fault r => .fault r
    | .refused r => .refused r

/-- Steps of a list one after another, each issued from the context beside it, stopping at the first fault or refusal:
one interleaving of the agents (R12, R70, R271). -/
def runAll : List (Context × Instr) → State → Host.Outcome State Fault Refusal
  | [], s => .next s
  | (c, i) :: is, s =>
    match exec i { s with issuer := c } with
    | .next t => runAll is t
    | .fault r => .fault r
    | .refused r => .refused r

/-- No operation that passes the guards is stopped by them: a configuration (R11), not faulted (R255). -/
abbrev Live (s : State) : Prop := s.cfg.valid = true ∧ s.fault = none

/-- The block takes commands: `init` has run (R258), and the thread issues them (R105). -/
abbrev Ready (s : State) : Prop := Live s ∧ s.issuer = .thread ∧ s.initialised = true

/-- What `fill_half` reads (R193) with the cursor at these values: the write position of a half (R25) and, when an
LED is left, its Color Value. -/
abbrev CanFill (s : State) (a : BufId) (led n w : Nat) : Prop :=
  s.active = .val a ∧ s.ledOff = .val led ∧ s.nCur = .val n ∧ s.wrPos = .val w ∧ (w = 0 ∨ w = s.cfg.bpl) ∧
  (led < n → led < s.maxLeds ∧ ((s.buf a).read led).isSome = true)

/-- The half a `fill_half` writes holds the LED's compare run, or zeros once the LEDs are exhausted (R193). -/
def fillValue (s : State) (a : BufId) (led n j : Nat) : CompareWord :=
  if led < n then (ledRun s.cfg (s.buf a) led).getD j 0 else 0

/-- The effect of `fill_half` (R193): the half at `w` written, all other scratch words kept, the LED counted, the write
position toggled, and nothing else changed but `Streaming` to `Draining` at a zero-fill. -/
abbrev Filled (s t : State) (a : BufId) (led n w : Nat) : Prop :=
  t = { s with scratch := t.scratch,
               ledOff := .val (if led < n then led + 1 else led),
               wrPos := .val (if w = 0 then s.cfg.bpl else 0),
               fsm := if n ≤ led ∧ s.fsm = .streaming then .draining else s.fsm } ∧
  ∀ i, t.scratch.read i =
    if w ≤ i ∧ i < w + s.cfg.bpl then some (fillValue s a led n (i - w)) else s.scratch.read i

end Sys2Proof.Machine
end

