-- ==== Sys2Proof/Certificates/Slice0/Obligations.lean ====
section
/-! DEFINITION. The statements for the provers, family by family in the order of spec/. Each cites the rules it
formalises in its docstring; OBLIGATIONS.json lists them. -/

open Sys2Proof Sys2Proof.Machine

/-! ## Timing Table and frame length (`40_timing_table.md`) -/

/-- R120. `round` is to the nearest, a tie going up; `ceil` is the least integer not below. -/
def Obligations.RoundIsHalfUpAndCeilIsLeast : Prop :=
  ∀ a b : Nat, 0 < b →
    2 * b * roundDiv a b ≤ 2 * a + b ∧ 2 * a + b < 2 * b * (roundDiv a b + 1) ∧
    a ≤ b * ceilDiv a b ∧ ∀ k, a ≤ b * k → ceilDiv a b ≤ k

/-- R121, R122, R124. The derived constants are the rounded and rounded-up quotients of the formulas, whenever the
period is at least half a tick so that `PERIOD_TICKS` is a natural number. -/
def Obligations.TimingTableFollowsTheFormulas : Prop :=
  ∀ p : Params, p.positive = true → 500000000 ≤ p.clkHz * p.periodNs →
    let c := p.build
    (2 * 1000000000 * (c.table.periodTicks + 1) ≤ 2 * (p.clkHz * p.periodNs) + 1000000000 ∧
      2 * (p.clkHz * p.periodNs) + 1000000000 < 2 * 1000000000 * (c.table.periodTicks + 2)) ∧
    (2 * p.periodNs * c.table.t0h ≤ 2 * (c.table.periodTicks * p.t0hNs) + p.periodNs ∧
      2 * (c.table.periodTicks * p.t0hNs) + p.periodNs < 2 * p.periodNs * (c.table.t0h + 1)) ∧
    (2 * p.periodNs * c.table.t1h ≤ 2 * (c.table.periodTicks * p.t1hNs) + p.periodNs ∧
      2 * (c.table.periodTicks * p.t1hNs) + p.periodNs < 2 * p.periodNs * (c.table.t1h + 1)) ∧
    1 ≤ c.table.pauseMinSlots ∧ p.pauseNs ≤ p.periodNs * c.table.pauseMinSlots ∧
      ∀ k, p.pauseNs ≤ p.periodNs * k → c.table.pauseMinSlots ≤ k

/-- R126. `frame_len(n)` is the least multiple of `SCRATCH_LEN` that is at least `n * BPL + PAUSE_MIN_SLOTS`. -/
def Obligations.FrameLenIsTheLeastMultiple : Prop :=
  ∀ (c : Config) (n : Nat),
    c.frameLen n % c.scratchLen = 0 ∧ n * c.bpl + c.table.pauseMinSlots ≤ c.frameLen n ∧
    ∀ k, k % c.scratchLen = 0 → n * c.bpl + c.table.pauseMinSlots ≤ k → c.frameLen n ≤ k

/-- R127. The properties of `pause_slots(n)`. -/
def Obligations.PauseSlotsProperties : Prop :=
  ∀ (c : Config) (n : Nat), c.valid = true →
    c.frameLen n = n * c.bpl + c.pauseSlots n ∧ c.table.pauseMinSlots ≤ c.pauseSlots n ∧
    c.pauseSlots n % c.bpl = 0 ∧ c.bpl ≤ c.pauseSlots n ∧ c.pauseSlots n < c.table.pauseMinSlots + c.scratchLen ∧
    ∀ m, m % 2 = n % 2 → c.pauseSlots m = c.pauseSlots n

/-! ## Bit Encoder and wire formats (`30_encoding.md`, `43_bit_encoder.md`) -/

/-- R93, R175. `encode(c)` has `BPL` values, and slot `j` carries `serial(c, j) = c.(CH[j div 8])[7 - (j mod 8)]`. -/
def Obligations.EncodeIsTheSerialBits : Prop :=
  ∀ (c : Config) (color : Color),
    let ch := (match c.params.order with
      | .grb => [color.green, color.red, color.blue]
      | .rgb => [color.red, color.green, color.blue]) ++ (if c.params.hasWhite = true then [color.white] else [])
    (encodeColor c color).length = c.bpl ∧ c.bpl = 8 * ch.length ∧
    ∀ j, j < c.bpl → (encodeColor c color)[j]? =
      some (if (ch.getD (j / 8) 0).getLsbD (7 - j % 8) = true then c.table.t1h else c.table.t0h)

/-- R175, R177 (the answer is held in the model's `ret`: log 9; that the row answers in every live state, also before
`init` and outside `refresh` and the services, where R271 and R100 have `encode` called only: log 20, the model's
choice). The row `encode` answers the compare run of its colour and changes nothing of the block. -/
def Obligations.EncodeRowAnswersItsRun : Prop :=
  ∀ (s : State) (color : Color), Live s →
    exec (.encode color) s = .next { s with ret := encodeColor s.cfg color }

/-- R178. `encode` is injective on the colours of a build, and a Color Value's serial bits are read back from its
compare run by R95. -/
def Obligations.EncodeIsInjective : Prop :=
  ∀ (c : Config) (x y : Color), c.valid = true → x.wf c.params.hasWhite = true → y.wf c.params.hasWhite = true →
    (encodeColor c x = encodeColor c y → x = y) ∧
    (encodeColor c x).map (compareSymbol c) = (serialBits (channels c x)).map fun b => some (bitSymbol b)

/-- R94, R95. The three compare values are distinct, each reads back as its symbol, and any other value is reserved.
-/
def Obligations.CompareValuesReadBack : Prop :=
  ∀ c : Config, c.valid = true →
    (∀ y : Symbol, compareSymbol c (symbolCompare c y) = some y) ∧
    ∀ v, v ≠ 0 → v ≠ c.table.t0h → v ≠ c.table.t1h → compareSymbol c v = none

/-- R94 (the answer is held in the model's `ret`: log 9; that the rows answer in every live state: log 20). A serial
bit 0 is `T0H`, a serial bit 1 is `T1H`, a slot of pause is 0. -/
def Obligations.SymbolRowsAnswer : Prop :=
  ∀ s : State, Live s →
    exec .symBit0 s = .next { s with ret := [s.cfg.table.t0h] } ∧
    exec .symBit1 s = .next { s with ret := [s.cfg.table.t1h] } ∧
    exec .symPause s = .next { s with ret := [0] }

/-- R92 (the answer is held in the model's `ret`: log 9; that `exec` answers a row in the builds of the other variants
too is the model's: log 19, and in every live state: log 20). Each LED word format answers the compare run of its word,
the most significant bit first: `[23:16]`, `[15:8]`, `[7:0]` (or from `[31:24]`) being the channels in the format's
order. -/
def Obligations.LedWordsAnswerTheirBits : Prop :=
  ∀ (s : State) (g r b w : Byte), Live s →
    let t0h := s.cfg.table.t0h
    let t1h := s.cfg.table.t1h
    (∃ t, exec (.ledwordGrb24 g r b) s = .next t ∧ t = { s with ret := t.ret } ∧ t.ret.length = 24 ∧
      ∀ j, j < 24 → t.ret[j]? =
        some (if (g.toNat * 2 ^ 16 + r.toNat * 2 ^ 8 + b.toNat).testBit (23 - j) = true then t1h else t0h)) ∧
    (∃ t, exec (.ledwordRgb24 r g b) s = .next t ∧ t = { s with ret := t.ret } ∧ t.ret.length = 24 ∧
      ∀ j, j < 24 → t.ret[j]? =
        some (if (r.toNat * 2 ^ 16 + g.toNat * 2 ^ 8 + b.toNat).testBit (23 - j) = true then t1h else t0h)) ∧
    (∃ t, exec (.ledwordGrbw32 g r b w) s = .next t ∧ t = { s with ret := t.ret } ∧ t.ret.length = 32 ∧
      ∀ j, j < 32 → t.ret[j]? =
        some (if (g.toNat * 2 ^ 24 + r.toNat * 2 ^ 16 + b.toNat * 2 ^ 8 + w.toNat).testBit (31 - j) = true then t1h
              else t0h)) ∧
    (∃ t, exec (.ledwordRgbw32 r g b w) s = .next t ∧ t = { s with ret := t.ret } ∧ t.ret.length = 32 ∧
      ∀ j, j < 32 → t.ret[j]? =
        some (if (r.toNat * 2 ^ 24 + g.toNat * 2 ^ 16 + b.toNat * 2 ^ 8 + w.toNat).testBit (31 - j) = true then t1h
              else t0h))

/-- R92, R98. The LED word of the build's own format answers what `encode` answers for its colour. -/
def Obligations.LedWordIsTheBuildsEncoding : Prop :=
  ∀ (s : State) (g r b w : Byte),
    (s.cfg.params.order = .grb → s.cfg.params.hasWhite = false →
      exec (.ledwordGrb24 g r b) s = exec (.encode ⟨r, g, b, 0⟩) s) ∧
    (s.cfg.params.order = .rgb → s.cfg.params.hasWhite = false →
      exec (.ledwordRgb24 r g b) s = exec (.encode ⟨r, g, b, 0⟩) s) ∧
    (s.cfg.params.order = .grb → s.cfg.params.hasWhite = true →
      exec (.ledwordGrbw32 g r b w) s = exec (.encode ⟨r, g, b, w⟩) s) ∧
    (s.cfg.params.order = .rgb → s.cfg.params.hasWhite = true →
      exec (.ledwordRgbw32 r g b w) s = exec (.encode ⟨r, g, b, w⟩) s)

/-- R98. `frame(B, n)` has `frame_len(n)` values, and position `p` is the compare value of LED `p div BPL` while LEDs
are left, and 0 after them. -/
def Obligations.FrameIsItsValues : Prop :=
  ∀ (c : Config) (m : Memory Color) (n : Nat), (∀ i, i < n → (m.read i).isSome = true) →
    frame c m n = (List.range (c.frameLen n)).map (frameValue c m n)

/-- R92, R94, R110 (requests as bytes: log 3; the channel order: log 13; the rows of one and two bytes: log 24). Decoding
an encoded operation gives it back, with every operand at every value its field holds. -/
def Obligations.DecodeOfEncode : Prop :=
  ∀ (order : ChannelOrder) (i : Instr), i.fits = true → i.ofOrder order = true → decode order (encode i) = .ok i

/-- R92, R94, R110 (requests as bytes: log 3; the channel order: log 13; that a compare word other than 0, `T0H` and
`T1H` among them, and a byte other than 0 and 1 do not decode: log 24, the model's choice). Bytes that decode are the
encoding of what they decode to: every word has one meaning. -/
def Obligations.EncodeOfDecode : Prop :=
  ∀ (order : ChannelOrder) (bytes : List Byte) (i : Instr), decode order bytes = .ok i →
    encode i = bytes ∧ i.fits = true ∧ i.ofOrder order = true

/-- R96, R92, R6 (which builds refuse a word: log 19). The length of an LED word is fixed by the build: a word of 24
or 32 bits is one of the build exactly when it has `BPL` bits. -/
def Obligations.LedWordLengthIsTheBuilds : Prop :=
  ∀ (c : Config) (bytes : List Byte) (i : Instr), decode c.params.order bytes = .ok i →
    bytes.length = 3 ∨ bytes.length = 4 → (i.wf c.params = true ↔ 8 * bytes.length = c.bpl)

/-- R100, R110. A command word with an unassigned ordinal, or with a bit set in any field its operation does not use
(the table of R110: `a` is used by ops 1, 2, 3, the colours by ops 1, 2, 8, bit 52 by op 2, bits 63..53 by none), is
rejected by name. -/
def Obligations.ReservedCommandWordsAreRejected : Prop :=
  ∀ (order : ChannelOrder) (w : Nat), w < 2 ^ 64 →
    let op := w % 16
    let used (k : Nat) : Prop := k < 4 ∨ (4 ≤ k ∧ k < 20 ∧ (op = 1 ∨ op = 2 ∨ op = 3)) ∨
      (20 ≤ k ∧ k < 52 ∧ (op = 1 ∨ op = 2 ∨ op = 8)) ∨ (k = 52 ∧ op = 2)
    (12 ≤ op → decode order (tableBytes 64 w) = .error .unassignedOrdinal) ∧
    (op < 12 → ∀ k, w.testBit k = true → ¬used k → decode order (tableBytes 64 w) = .error .unusedFieldNotZero)

/-- R110. The spec's own command words. -/
def Obligations.SpecCommandWordsDecode : Prop :=
  decodeTableWord 64 0x0 = some .init ∧
  decodeTableWord 64 0xFF3CA500001 = some (.setLed 0 ⟨0xA5, 0x3C, 0xFF, 0⟩) ∧
  decodeTableWord 64 0x10000000000042 = some (.setAllLeds Color.black 4 true) ∧
  decodeTableWord 64 0x13 = some (.refresh 1) ∧
  decodeTableWord 64 0x4 = some .slot ∧
  decodeTableWord 64 0x7856341200001 = some (.setLed 0 ⟨0x12, 0x34, 0x56, 0x78⟩)

/-! ## The Color Buffer Pair (`42_color_buffer.md`) -/

/-- R160. `set_led` writes one entry of the writable buffer and nothing else; an index at or above `MAX_LEDS` changes
nothing; before `init` and from interrupt context it is refused. -/
def Obligations.SetLedWritesOneEntry : Prop :=
  ∀ (s : State) (a : BufId) (index : Nat) (color : Color), Live s →
    (s.issuer = .thread → s.initialised = true → s.active = .val a → index < s.maxLeds →
      ∃ t, exec (.setLed index color) s = .next t ∧ t = s.setBuf a.other (t.buf a.other) ∧
        ∀ i, (t.buf a.other).read i = if i = index then some color else (s.buf a.other).read i) ∧
    (s.issuer = .thread → s.initialised = true → s.maxLeds ≤ index → exec (.setLed index color) s = .next s) ∧
    (s.issuer = .thread → s.initialised = false → exec (.setLed index color) s = .refused .notInitialised) ∧
    (s.issuer = .interrupt → s.initialised = true → exec (.setLed index color) s = .refused .commandFromInterrupt)

/-- R161 (the fill), R102. `set_all_leds` without its flag fills the first `min(count, MAX_LEDS)` entries of the
writable buffer and changes nothing else. -/
def Obligations.SetAllLedsFills : Prop :=
  ∀ (s : State) (a : BufId) (color : Color) (count : Nat), Ready s → s.active = .val a →
    ∃ t, exec (.setAllLeds color count false) s = .next t ∧ t = s.setBuf a.other (t.buf a.other) ∧
      ∀ i, (t.buf a.other).read i = if i < min count s.maxLeds then some color else (s.buf a.other).read i

/-- R109, R161. `set_all_leds(color, count, 1)` is two steps, the fill and then `refresh(count)`: what stops the first
stops it, and after the first APP stands at the second (`held`: logs 6, 17), which is the next step when `busy = 0` and
nothing else is pending or requested (log 4). -/
def Obligations.SetAllLedsWithRefreshIsFillThenRefresh : Prop :=
  ∀ (s : State) (color : Color) (count : Nat),
    (∀ f, exec (.setAllLeds color count false) s = .next f →
      exec (.setAllLeds color count true) s = .next { f with held := some count } ∧
      (f.busy = false → f.htFlag = false → f.tcFlag = false → f.script = [] →
        step { f with held := some count } = exec (.refresh count) f)) ∧
    (∀ r, exec (.setAllLeds color count false) s = .fault r → exec (.setAllLeds color count true) s = .fault r) ∧
    (∀ r, exec (.setAllLeds color count false) s = .refused r → exec (.setAllLeds color count true) s = .refused r)

/-- R161 with its flag, R232, R233 (logs 4, 6, 17; `levels`: log 11). The fill is taken at once, whatever `busy` is,
APP stands at the refresh, and nothing else changes. When `busy = 0` and the writable buffer is full, the refresh is
taken next: both buffers hold the filled contents, the scratch buffer the first values of their frame, the transfer is
armed, and nothing else changes. -/
def Obligations.SetAllLedsWithRefreshCompletes : Prop :=
  ∀ (s : State) (a : BufId) (color : Color) (count : Nat), Ready s → s.active = .val a →
    ∃ u, exec (.setAllLeds color count true) s = .next u ∧
      u = { s.setBuf a.other (u.buf a.other) with held := some count } ∧
      (∀ i, (u.buf a.other).read i = if i < min count s.maxLeds then some color else (s.buf a.other).read i) ∧
      (s.busy = false → s.htFlag = false → s.tcFlag = false → s.script = [] → step u = exec (.refresh count) u) ∧
      (s.busy = false → BufferFull u a.other →
        ∃ t, exec (.refresh count) u = .next t ∧
          (∀ i, i < s.maxLeds → ∀ b, (t.buf b).read i =
            if i < min count s.maxLeds then some color else (s.buf a.other).read i) ∧
          (∀ i, s.maxLeds ≤ i → ∀ b, (t.buf b).read i = (s.buf b).read i) ∧
          (∀ i, t.scratch.read i = if i < s.cfg.scratchLen then
            some (frameValue s.cfg (t.buf a.other) (min count s.maxLeds) i) else s.scratch.read i) ∧
          t = { s with
            buf0 := t.buf0, buf1 := t.buf1, scratch := t.scratch, active := .val a.other,
            nCur := .val (min count s.maxLeds), total := .val (s.cfg.frameLen (min count s.maxLeds)), pos := .val 0,
            ledOff := .val (min 2 (min count s.maxLeds)), wrPos := .val 0, dmaIdx := .val 0, htFlag := false,
            tcFlag := false, cnt := .val 0, wire := [], busy := true, dmaEn := true, timEn := true, fsm := .armed,
            held := none, levels := t.levels })

/-- R104, R105. Every command but `init` is refused before `init`, a second `init` is refused, and all four are
refused from interrupt context (named so where no other refusal applies as well). -/
def Obligations.MisuseIsRefused : Prop :=
  ∀ (s : State) (index count : Nat) (color : Color) (flag : Bool), Live s →
    (s.issuer = .thread → s.initialised = false →
      exec (.setLed index color) s = .refused .notInitialised ∧
      exec (.setAllLeds color count flag) s = .refused .notInitialised ∧
      exec (.refresh count) s = .refused .notInitialised) ∧
    (s.issuer = .thread → s.initialised = true → exec .init s = .refused .alreadyInitialised) ∧
    (s.issuer = .interrupt → ∀ i : Instr, i.isCommand = true → ∃ r, exec i s = .refused r ∧
      ((i = .init ↔ s.initialised = false) → r = .commandFromInterrupt))

/-! ## Reset and the façade (`10_state.md` R52, `45_driver_facade.md`, `70_reset_and_hazards.md`) -/

/-- R290. Hardware reset: the enables, flags and `busy` are 0, `fsm = Idle`, the pin unconfigured, not initialised, no
fault, the traces empty, and every other element, and the level of the wire, unspecified. -/
def Obligations.HardwareResetIsQuiet : Prop :=
  ∀ c : Config, let s := State.resetWith c
    s.timEn = false ∧ s.dmaEn = false ∧ s.htFlag = false ∧ s.tcFlag = false ∧ s.busy = false ∧ s.fsm = .idle ∧
    s.outMode = .unconfigured ∧ s.initialised = false ∧ s.fault = none ∧ s.wire = [] ∧ s.frames = [] ∧
    (∀ i, s.buf0.read i = none ∧ s.buf1.read i = none ∧ s.scratch.read i = none) ∧
    s.active = .unspecified ∧ s.wrPos = .unspecified ∧ s.ledOff = .unspecified ∧ s.pos = .unspecified ∧
    s.total = .unspecified ∧ s.nCur = .unspecified ∧ s.arr = .unspecified ∧ s.cnt = .unspecified ∧
    s.ccr = .unspecified ∧ s.dmaIdx = .unspecified ∧ s.dmaConf = .unspecified ∧ s.line = .unspecified

/-- R52 (the column "when init returns"), R230 (the pin sample as a free value: log 8; `init` as one step, its refresh
included: log 17). Issued in thread context before any other, `init` leaves every element as the table says: both
buffers black, and a frame of `MAX_LEDS` black LEDs armed. Of the model's own fields it keeps all but `draws` (log 8)
and `levels` (log 11), of which nothing is said here. -/
def Obligations.InitLeavesTheTable : Prop :=
  ∀ s : State, Live s → s.issuer = .thread → s.initialised = false →
    ∃ t, exec .init s = .next t ∧
      (∀ i, i < s.maxLeds → t.buf0.read i = some Color.black ∧ t.buf1.read i = some Color.black) ∧
      t.active = .val .b1 ∧
      (∀ j, j < s.cfg.scratchLen → t.scratch.read j =
        some (if j < s.cfg.bpl ∨ 2 ≤ s.maxLeds then s.cfg.table.t0h else 0)) ∧
      t.wrPos = .val 0 ∧ t.ledOff = .val (min 2 s.maxLeds) ∧ t.pos = .val 0 ∧
      t.total = .val (s.cfg.frameLen s.maxLeds) ∧ t.nCur = .val s.maxLeds ∧ t.busy = true ∧ t.fsm = .armed ∧
      t.psc = 0 ∧ t.arr = .val s.cfg.table.periodTicks ∧ t.cnt = .val 0 ∧ t.ccr = .val 0 ∧ t.timEn = true ∧
      t.dmaEn = true ∧ t.dmaIdx = .val 0 ∧ t.htFlag = false ∧ t.tcFlag = false ∧
      t.outMode = (if Config.pinSample s.draws = true then .openDrain else .pushPull) ∧
      t.initialised = true ∧ t.fault = none ∧ t.wire = [] ∧ t.frames = [] ∧ t.dmaConf = .val (dmaConfOf s.cfg) ∧
      (∀ i, s.maxLeds ≤ i → t.buf0.read i = s.buf0.read i ∧ t.buf1.read i = s.buf1.read i) ∧
      (∀ j, s.cfg.scratchLen ≤ j → t.scratch.read j = s.scratch.read j) ∧
      t.cfg = s.cfg ∧ t.script = s.script ∧ t.held = s.held ∧ t.issuer = s.issuer ∧ t.ret = s.ret

/-- R231, R42 (the sample as a free value of the model's own counter `draws`, and what each row does to that counter:
log 8, the model's choice). The pin sample selects the output mode in `init`; no other operation changes it. -/
def Obligations.OutModeIsChosenByInitOnly : Prop :=
  ∀ (s t : State) (i : Instr), exec i s = .next t →
    (i ≠ .init → t.outMode = s.outMode ∧ t.draws = s.draws) ∧
    (i = .init → t.outMode = (if Config.pinSample s.draws = true then .openDrain else .pushPull) ∧
      t.draws = s.draws + 1)

/-- R232 (the hold; log 6). `refresh` issued while `busy = 1` waits and changes nothing of the block. -/
def Obligations.RefreshHoldsWhileBusy : Prop :=
  ∀ (s : State) (n : Nat), Ready s → s.busy = true → exec (.refresh n) s = .next { s with held := some n }

/-- R233, R102, R195, R196, R74, R71 (that APP waits no longer, `held`: log 6; the free `levels`: log 11). With
`busy = 0` `refresh` clamps its operand, swaps the buffers, copies all `MAX_LEDS` entries forward, prefills both
scratch halves with the frame's first values, arms, and changes nothing else. -/
def Obligations.RefreshArmsTheFrame : Prop :=
  ∀ (s : State) (a : BufId) (nLeds : Nat), Ready s → s.busy = false → s.active = .val a → BufferFull s a.other →
    ∃ t, exec (.refresh nLeds) s = .next t ∧
      t.buf a.other = s.buf a.other ∧
      (∀ i, (t.buf a).read i = if i < s.maxLeds then (s.buf a.other).read i else (s.buf a).read i) ∧
      (∀ i, t.scratch.read i = if i < s.cfg.scratchLen then
        some (frameValue s.cfg (s.buf a.other) (min nLeds s.maxLeds) i) else s.scratch.read i) ∧
      t = { s with
        buf0 := t.buf0, buf1 := t.buf1, scratch := t.scratch, active := .val a.other,
        nCur := .val (min nLeds s.maxLeds), total := .val (s.cfg.frameLen (min nLeds s.maxLeds)), pos := .val 0,
        ledOff := .val (min 2 (min nLeds s.maxLeds)), wrPos := .val 0, dmaIdx := .val 0, htFlag := false,
        tcFlag := false, cnt := .val 0, wire := [], busy := true, dmaEn := true, timEn := true, fsm := .armed,
        held := none, levels := t.levels }

/-- R69 (V3), R74. Two refreshes of the same count with no write between them send the same frame: the second swap
makes a copy of the first one's buffer hardware-owned. -/
def Obligations.RepeatedRefreshSendsTheSameFrame : Prop :=
  ∀ (s t u v : State) (a b : BufId) (n : Nat), Ready s → s.busy = false → exec (.refresh n) s = .next t →
    t.active = .val a → u.active = .val a → u.cfg = t.cfg → u.buf0 = t.buf0 → u.buf1 = t.buf1 → u.busy = false →
    exec (.refresh n) u = .next v → v.active = .val b →
    frame v.cfg (v.buf b) (min n v.maxLeds) = frame t.cfg (t.buf a) (min n t.maxLeds)

/-! ## The DMA Streaming Engine (`44_streaming_engine.md`) -/

/-- R193, R271 (which states are inside `refresh` or a service: log 12). `fill_half`, where it is enabled, writes the
half at the write position with the next LED's compare run, or with zeros once the LEDs are exhausted, keeps every
other scratch word, and moves the cursor; an entry never written faults. -/
def Obligations.FillHalfWritesOneHalf : Prop :=
  ∀ (s : State) (a : BufId) (led n w : Nat), Live s → fillEnabled s = true →
    (CanFill s a led n w → ∃ t, exec .fillHalf s = .next t ∧ Filled s t a led n w) ∧
    (s.active = .val a → s.ledOff = .val led → s.nCur = .val n → s.wrPos = .val w → led < n → led < s.maxLeds →
      (s.buf a).read led = none → exec .fillHalf s = .fault .readUnspecified)

/-- R196, R271 (which states are inside `refresh`: log 12; `levels`: log 11). `arm`, where it is enabled: read index and
flags reset, a new trace, `busy`, DMA and timer enabled, `Armed`; nothing else of the block changes. -/
def Obligations.ArmStartsATransfer : Prop :=
  ∀ s : State, Live s → armEnabled s = true →
    ∃ t, exec .arm s = .next t ∧
      t = { s with dmaIdx := .val 0, htFlag := false, tcFlag := false, cnt := .val 0, wire := [], busy := true,
                   dmaEn := true, timEn := true, fsm := .armed, levels := t.levels }

/-- R202, R271 (which states are inside the final `on_complete`: log 12). `disarm`, where it is enabled: DMA and timer
disabled, the completed trace pushed, `busy` cleared, `Idle`; nothing else changes. -/
def Obligations.DisarmEndsATransfer : Prop :=
  ∀ s : State, Live s → disarmEnabled s = true →
    exec .disarm s = .next { s with dmaEn := false, timEn := false, frames := s.frames ++ [s.wire], busy := false,
                                    fsm := .idle }

/-- R100, R191, R192, R258, R271, R304 (the enabling conditions: log 12). The inner procedures are called only: between
two steps of a run, before `init` and after it, none of them is enabled and a request for one changes nothing; at the
calls of `refresh` and of the two services each is enabled. -/
def Obligations.InnerProceduresAreCalledOnly : Prop :=
  (∀ (s : State) (i : Instr), Inv s → i.isInnerProcedure = true → exec i s = .next s) ∧
  (∀ (s m u : State) (n : Nat), Ready s → s.busy = false → fillHalf (s.startCursor n) = .ok m → fillHalf m = .ok u →
    fillEnabled (s.startCursor n) = true ∧ fillEnabled m = true ∧ prefill n s = .ok u ∧ armEnabled u = true) ∧
  (∀ (s : State) (a : BufId) (n q : Nat), InFlight s a n q → s.issuer = .interrupt →
    fillEnabled (s.acknowledged .halfTransfer (q * s.cfg.bpl)) = true ∧
    (if (q + 1) * s.cfg.bpl < s.cfg.frameLen n then
      fillEnabled (s.acknowledged .transferComplete (q * s.cfg.bpl)) = true
    else disarmEnabled (s.acknowledged .transferComplete (q * s.cfg.bpl)) = true))

/-- R197. `slot` with timer and DMA enabled: one scratch word into `ccr` and the trace, the index moved on
circularly, the interrupt flag of a half or of the wrap raised, or the fault when one is still pending; nothing else
changes. -/
def Obligations.SlotTakesOneBeat : Prop :=
  ∀ (s : State) (idx : Nat) (v : CompareWord), Live s → s.timEn = true → s.dmaEn = true →
    s.dmaIdx = .val idx → idx < s.cfg.scratchLen → s.scratch.read idx = some v →
    let next := (idx + 1) % s.cfg.scratchLen
    let moved : State := { s with ccr := .val v, wire := s.wire ++ [v], dmaIdx := .val next,
                                  fsm := if s.fsm = .armed then .streaming else s.fsm }
    exec .slot s =
      if next = s.cfg.bpl then
        if s.htFlag = true ∨ s.tcFlag = true then .fault .refillOverrun else .next { moved with htFlag := true }
      else if next = 0 then
        if s.htFlag = true ∨ s.tcFlag = true then .fault .refillOverrun else .next { moved with tcFlag := true }
      else .next moved

/-- R200, R271. `on_half_transfer` in interrupt context with its flag pending: the flag cleared, `pos` advanced by
`BPL`, then `fill_half`. -/
def Obligations.HalfTransferServiceRefills : Prop :=
  ∀ (s : State) (a : BufId) (led n w p : Nat), Live s → s.issuer = .interrupt → s.htFlag = true → s.pos = .val p →
    CanFill s a led n w →
    ∃ t, exec .onHalfTransfer s = .next t ∧
      Filled { s with htFlag := false, pos := .val (p + s.cfg.bpl) } t a led n w

/-- R201, R202, R271. `on_complete` in interrupt context with its flag pending: the flag cleared, `pos` advanced by
`BPL`; then, short of the total, `fill_half`, and at the total `disarm`. -/
def Obligations.CompleteServiceRefillsOrDisarms : Prop :=
  ∀ (s : State) (p total : Nat), Live s → s.issuer = .interrupt → s.tcFlag = true → s.pos = .val p →
    s.total = .val total →
    (p + s.cfg.bpl < total → ∀ a led n w, CanFill s a led n w →
      ∃ t, exec .onComplete s = .next t ∧
        Filled { s with tcFlag := false, pos := .val (p + s.cfg.bpl) } t a led n w) ∧
    (total ≤ p + s.cfg.bpl →
      exec .onComplete s = .next { s with tcFlag := false, pos := .val (p + s.cfg.bpl), dmaEn := false, timEn := false,
                                          frames := s.frames ++ [s.wire], busy := false, fsm := .idle })

/-- R197, R199, R143, R271 (log 15). A `slot` or `tick` with the timer off, a `slot` with the DMA off, a service whose
flag is not pending or that thread context names, and an inner procedure outside its callers are not enabled: nothing
changes. -/
def Obligations.DisabledStepsChangeNothing : Prop :=
  ∀ s : State, Live s →
    (s.timEn = false → exec .slot s = .next s ∧ exec .tick s = .next s) ∧
    (s.dmaEn = false → exec .slot s = .next s) ∧
    (s.htFlag = false ∨ s.issuer = .thread → exec .onHalfTransfer s = .next s) ∧
    (s.tcFlag = false ∨ s.issuer = .thread → exec .onComplete s = .next s) ∧
    (fillEnabled s = false → exec .fillHalf s = .next s) ∧
    (armEnabled s = false ∨ s.issuer = .interrupt → exec .arm s = .next s) ∧
    (disarmEnabled s = false ∨ s.issuer = .thread → exec .disarm s = .next s)

/-! ## The PWM carrier (`41_pwm_carrier.md`) -/

/-- R143, R144, R147 (the emitted levels are held in the model's `levels`: log 11). `tick` with the timer on emits
the level, high exactly while `cnt < ccr`, and counts; at `cnt = arr` it returns to 0 and, if the DMA is enabled,
takes the beat a `slot` takes. -/
def Obligations.TickCountsAndRequests : Prop :=
  ∀ (s : State) (cnt arr : Nat) (ccr : CompareWord), Live s → s.timEn = true →
    s.cnt = .val cnt → s.arr = .val arr → s.ccr = .val ccr →
    let emitted : State := { s with levels := s.levels ++ [if cnt < ccr then .high else .low] }
    (cnt ≠ arr → exec .tick s = .next { emitted with cnt := .val (cnt + 1) }) ∧
    (cnt = arr → s.dmaEn = false → exec .tick s = .next { emitted with cnt := .val 0 }) ∧
    (cnt = arr → s.dmaEn = true → exec .tick s = exec .slot { emitted with cnt := .val 0 })

/-- R148, R145 (the emitted levels are held in the model's `levels`: log 11). From the start of a period, `arr + 1`
ticks are one `slot`: the same state, or the same fault, the ticks having emitted the pulse of the compare value in
force, its high part first. -/
def Obligations.OnePeriodOfTicksIsOneSlot : Prop :=
  ∀ (s : State) (arr : Nat) (ccr : CompareWord), Live s → s.timEn = true → s.dmaEn = true →
    s.cnt = .val 0 → s.arr = .val arr → s.ccr = .val ccr →
    repeated .tick (arr + 1) s = exec .slot { s with
      levels := s.levels ++ (List.replicate (min ccr (arr + 1)) .high ++ List.replicate (arr + 1 - ccr) .low) }

/-- R43, R144, R149. After `init` the wire is low while the timer is off, and otherwise high exactly while
`cnt < ccr`. -/
def Obligations.WireIsLowWhileTheTimerIsOff : Prop :=
  ∀ (s : State) (cnt : Nat) (ccr : CompareWord), s.initialised = true →
    (s.timEn = false → s.line = .val .low) ∧
    (s.timEn = true → s.cnt = .val cnt → s.ccr = .val ccr → s.line = .val (if cnt < ccr then .high else .low))

/-- R150, R43, R309. The output mode changes how the pin makes a level, not which level: `PushPull` drives both,
`OpenDrain` drives low and releases for high; the external pull-up raises a released wire, and without one it stays
low. -/
def Obligations.OutModeSaysHowTheLevelIsMade : Prop :=
  ∀ (s : State) (level : Level), s.line = .val level →
    (s.outMode = .pushPull → s.drive = .val (if level = .high then .high else .low)) ∧
    (s.outMode = .openDrain → s.drive = .val (if level = .high then .released else .low)) ∧
    (∀ d, s.drive = .val d → wireLevel true d = level ∧ (s.outMode = .pushPull → wireLevel false d = level) ∧
      (s.outMode = .openDrain → wireLevel false d = .low))

/-! ## Whole-machine rules (`10_state.md` section 8, `60_exceptions.md`) -/

/-- R6, R32 (log 5). The configuration is build-time: no step changes it. -/
def Obligations.ConfigurationNeverChanges : Prop :=
  ∀ s t : State, step s = .next t → t.cfg = s.cfg ∧ t.psc = 0

/-- R45, R255 (the state that records a fault: log 18; that it goes before refusals: log 16). A fault is sticky: in a faulted state every operation and
every step answers that fault, the state is not final, and the state that records a fault is such a state. -/
def Obligations.FaultIsSticky : Prop :=
  ∀ (s : State) (i : Instr) (r : Fault), s.cfg.valid = true →
    (s.fault = some r → exec i s = .fault r ∧ step s = .fault r ∧ s.finished = false) ∧
    (exec i s = .fault r → (s.after (exec i s)).fault = some r ∧ (s.after (exec i s)).cfg = s.cfg)

/-- R251 (class a), R128 (that this refusal goes before a recorded fault and every other refusal: log 16). A record
that breaks R11 is no configuration: every operation and every step is refused. -/
def Obligations.BadConfigurationIsRefused : Prop :=
  ∀ (s : State) (i : Instr), s.cfg.valid = false →
    exec i s = .refused .badConfiguration ∧ step s = .refused .badConfiguration

/-- R60 to R62 (the memories as sorted lists: log 2). Every step, of whatever request, keeps the three memories
canonical and inside their index ranges. -/
def Obligations.StepKeepsTheMemoriesCanonical : Prop :=
  ∀ s t : State, MemoriesCanonical s → step s = .next t → MemoriesCanonical t

/-- R60 to R62, R290 (the memories as sorted lists: log 2). The memories of hardware reset are canonical, and no
element of them holds a value. -/
def Obligations.ResetMemoriesAreCanonical : Prop :=
  MemoriesCanonical State.reset ∧ ∀ c : Config, MemoriesCanonical (State.resetWith c) ∧
    ∀ i, (State.resetWith c).buf0.read i = none ∧ (State.resetWith c).buf1.read i = none ∧
      (State.resetWith c).scratch.read i = none

/-- R47 to R51, R75, R190 to R209, R304. The invariant of fault-free runs is kept by every step, whatever the script
requests: under every interleaving, and whichever rows it names. -/
def Obligations.StepKeepsTheStreamingInvariant : Prop :=
  ∀ s t : State, Inv s → step s = .next t → Inv t

/-- R52, R290. Hardware reset of every configuration meets the invariant. -/
def Obligations.ResetMeetsTheStreamingInvariant : Prop :=
  ∀ c : Config, c.valid = true → Inv (State.resetWith c)

/-- R47, R48, R49, R50, R35. What the invariant says after `init`, rule by rule. -/
def Obligations.InvariantGivesTheRules : Prop :=
  ∀ s : State, Inv s → s.initialised = true →
    ((s.busy = true ↔ s.fsm ≠ .idle) ∧ (s.busy = true ↔ s.timEn = true) ∧ (s.busy = true ↔ s.dmaEn = true)) ∧
    (∃ pos total led n, s.pos = .val pos ∧ s.total = .val total ∧ s.ledOff = .val led ∧ s.nCur = .val n ∧
      pos % s.cfg.bpl = 0 ∧ total % s.cfg.scratchLen = 0 ∧ s.cfg.scratchLen ≤ total ∧ pos ≤ total ∧
      (s.busy = true → pos < total) ∧ led ≤ n ∧ n ≤ s.maxLeds) ∧
    (s.htFlag = true → s.wrPos = .val 0) ∧ (s.tcFlag = true → s.wrPos = .val s.cfg.bpl) ∧
    ¬(s.htFlag = true ∧ s.tcFlag = true) ∧
    (s.fsm = .idle → s.ccr = .val 0)

/-- R191, R192. An operation moves the state machine only along the four transitions, each taken by the operations and
under the condition of the table. -/
def Obligations.StateMachineMovesOnlyAsTabled : Prop :=
  ∀ (s t : State) (i : Instr), Inv s → exec i s = .next t →
    t.fsm = s.fsm ∨
    (s.fsm = .idle ∧ t.fsm = .armed ∧ s.busy = false ∧ (i = .init ∨ ∃ n, i = .refresh n)) ∨
    (s.fsm = .armed ∧ t.fsm = .streaming ∧ s.wire = [] ∧ t.wire.length = 1 ∧ (i = .slot ∨ i = .tick)) ∨
    (s.fsm = .streaming ∧ t.fsm = .draining ∧ (i = .onHalfTransfer ∨ i = .onComplete) ∧
      ∃ led n, s.ledOff = .val led ∧ s.nCur = .val n ∧ n ≤ led) ∨
    (s.fsm = .draining ∧ t.fsm = .idle ∧ i = .onComplete ∧
      ∃ pos total, t.pos = .val pos ∧ t.total = .val total ∧ total ≤ pos)

/-- R208, R72, R73, R162. While a frame is in flight no command changes the cursor, the scratch buffer, the timer,
the DMA, the trace, or the hardware-owned buffer. -/
def Obligations.CommandsInFlightLeaveTheFrameAlone : Prop :=
  ∀ (s t : State) (a : BufId) (i : Instr), s.initialised = true → s.busy = true → s.active = .val a →
    i.isCommand = true → exec i s = .next t →
    t.buf a = s.buf a ∧
    t = { s with buf0 := t.buf0, buf1 := t.buf1, held := t.held }

/-- R51, R63. The services and the engine leave both LED buffers and the choice of buffer alone. -/
def Obligations.ServicesAndEngineLeaveTheBuffersAlone : Prop :=
  ∀ (s t : State) (i : Instr), i.isCommand = false → exec i s = .next t →
    t.buf0 = s.buf0 ∧ t.buf1 = s.buf1 ∧ t.active = s.active ∧ t.initialised = s.initialised

/-- R21, R255, R264. In a run from hardware reset, whatever is requested, the only fault is `RefillOverrun`, raised by a
beat with a flag still pending: no element that holds no value is ever read. -/
def Obligations.OnlyLateServiceFaults : Prop :=
  ∀ (s : State) (i : Instr) (r : Fault), Inv s → exec i s = .fault r →
    r = .refillOverrun ∧ (i = .slot ∨ i = .tick) ∧ (s.htFlag = true ∨ s.tcFlag = true)

/-- R300, R206. The refill deadline in steps: with `q` services done, the beat that faults is exactly the one that
would be number `(q + 2) * BPL`, and every earlier one is taken. -/
def Obligations.RefillDeadlineIsExact : Prop :=
  ∀ (s : State) (a : BufId) (n q : Nat), Live s → InFlight s a n q →
    (s.wire.length + 1 = (q + 2) * s.cfg.bpl → exec .slot s = .fault .refillOverrun) ∧
    (s.wire.length + 1 < (q + 2) * s.cfg.bpl → ∃ t, exec .slot s = .next t ∧
      t.wire = s.wire ++ [frameValue s.cfg (s.buf a) n s.wire.length] ∧ InFlight t a n q)

/-! ## A frame as a whole (`44_streaming_engine.md` section 6) -/

/-- R203. Under every interleaving of operations after a transfer of `n` LEDs from buffer `a` is armed, by whichever
operation, the trace of the transfer, when it completes, is `frame(B, n)` followed by fewer than `BPL` zeros, where `B`
is that buffer's contents when it was armed. -/
def Obligations.EveryTransferSendsItsFrame : Prop :=
  ∀ (s s2 t : State) (a : BufId) (n : Nat) (is : List (Context × Instr)),
    Live s → InFlight s a n 0 → s.wire = [] → runAll is s = .next s2 → s2.frames = s.frames →
    exec .onComplete { s2 with issuer := .interrupt } = .next t → t.frames ≠ s2.frames →
    ∃ k, k < s.cfg.bpl ∧ t.frames = s.frames ++ [frame s.cfg (s.buf a) n ++ List.replicate k 0]

/-- R203, R230, R233, R71. A transfer is armed by `init` or by a `refresh` that is taken, and by nothing else (the
refresh of `set_all_leds` is one: log 17): `init` arms the frame of `MAX_LEDS` black LEDs, `refresh(n)` the frame of
`min(n, MAX_LEDS)` LEDs of the buffer that was writable before it. -/
def Obligations.EveryArmingStartsAFrame : Prop :=
  ∀ (s t : State) (i : Instr), Inv s → exec i s = .next t → s.busy = false → t.busy = true →
    ∃ a n, InFlight t a n 0 ∧ t.wire = [] ∧
      ((i = .init ∧ n = s.maxLeds ∧ t.frames = [] ∧
          ∀ j, j < s.maxLeds → (t.buf a).read j = some Color.black) ∨
        ∃ m b, i = .refresh m ∧ n = min m s.maxLeds ∧ t.frames = s.frames ∧ s.active = .val b ∧ a = b.other ∧
          t.buf a = s.buf a)

/-- R203, R204, R205 (a step with nothing requested follows the eager schedule: log 4). Under the eager schedule a
frame just armed completes: after one step for each of its `frame_len(n)` beats and one for each of its interrupt
services (one per `BPL` beats), the block is at rest and the trace is exactly `frame(B, n)`. -/
def Obligations.EagerScheduleCompletesTheFrame : Prop :=
  ∀ (s : State) (a : BufId) (n : Nat), Live s → InFlight s a n 0 → s.wire = [] → s.script = [] → s.held = none →
    ∃ t : State, Host.Core.run Sys2Proof.core (s.cfg.frameLen n + s.cfg.frameLen n / s.cfg.bpl) s = .next t ∧
      AtRest t a n ∧ t.finished = true ∧
      t.frames = s.frames ++ [frame s.cfg (s.buf a) n]

/-! ## The step (`00_scope.md` R12, `20_memory.md` R70) -/

/-- R12, R70, R99 (logs 3, 20). A step runs the next request's operation, given as a word or as a call, in the context
that issues it, unless it is a command of a thread that waits at a refresh. -/
def Obligations.StepRunsTheDecodedRequest : Prop :=
  ∀ (s : State) (r : Request) (rest : List Request) (i : Instr), s.script = r :: rest →
    requested s.cfg.params.order r.operation = .ok i → i.wf s.cfg.params = true →
    (s.held = none ∨ i.isCommand = false ∨ r.issuer = .interrupt) →
    step s = exec i { s with script := rest, issuer := r.issuer }

/-- Logs 3, 19, 20. The table word placed by `withFetchWord` is what the next step runs, from every state: in the
context of its row, and, when it is an LED word, in the build whose words have its length. -/
def Obligations.FetchWordIsRunNext : Prop :=
  ∀ (s : State) (nbits w : Nat) (i : Instr),
    let c := Config.builtFor s.cfg nbits
    decode c.params.order (tableBytes nbits w) = .ok i → i.wf c.params = true →
    step (s.withFetchWord nbits w) = exec i { s with cfg := c, held := none, issuer := i.context }

/-- R100, R106, R110, R96 (requests as bytes: log 3; an LED word of another variant: log 19; that this refusal goes
before the context, `initialised` and a wait of APP: log 16). A request that does not decode, or whose operands or LED
word the build does not have, is refused by name. -/
def Obligations.StepRefusesWhatIsNoRequest : Prop :=
  ∀ (s : State) (r : Request) (rest : List Request), Live s → s.script = r :: rest →
    (∀ e, requested s.cfg.params.order r.operation = .error e → step s = .refused (.undecodable e)) ∧
    (∀ i, requested s.cfg.params.order r.operation = .ok i → i.wf s.cfg.params = false →
      step s = .refused .illFormed)

/-- R199, R205, R232, R70, R271 (log 4). With no request left, or with a command of a thread that waits at a refresh, a
step serves the pending flag in interrupt context, or takes the waiting refresh in thread context, or takes a slot; and
with nothing enabled the state repeats. -/
def Obligations.StepFollowsTheEagerSchedule : Prop :=
  ∀ s : State, Live s →
    (s.script = [] ∨ ∃ r rest i, s.script = r :: rest ∧ requested s.cfg.params.order r.operation = .ok i ∧
      i.wf s.cfg.params = true ∧ i.isCommand = true ∧ r.issuer = .thread ∧ s.held ≠ none) →
    (s.htFlag = true → step s = exec .onHalfTransfer { s with issuer := .interrupt }) ∧
    (s.htFlag = false → s.tcFlag = true → step s = exec .onComplete { s with issuer := .interrupt }) ∧
    (s.htFlag = false → s.tcFlag = false →
      (∀ n, s.held = some n → s.busy = false → step s = exec (.refresh n) { s with issuer := .thread }) ∧
      (s.held = none ∨ s.busy = true → s.timEn = true → s.dmaEn = true → step s = exec .slot s) ∧
      (s.held = none ∨ s.busy = true → s.timEn = false ∨ s.dmaEn = false → step s = .next s))
end

