-- ==== Sys2Proof/Laws/State.lean ====
section
/-! SUPPORT. One lemma per field per named update of the state, true by unfolding the update once, so that no later
proof unfolds one. -/

namespace Sys2Proof.Machine

@[simp] theorem State.setBuf_active (s : State) (b : BufId) (m : Memory Color) : (s.setBuf b m).active = s.active := by cases b <;> rfl
@[simp] theorem State.setBuf_scratch (s : State) (b : BufId) (m : Memory Color) : (s.setBuf b m).scratch = s.scratch := by cases b <;> rfl
@[simp] theorem State.setBuf_wrPos (s : State) (b : BufId) (m : Memory Color) : (s.setBuf b m).wrPos = s.wrPos := by cases b <;> rfl
@[simp] theorem State.setBuf_ledOff (s : State) (b : BufId) (m : Memory Color) : (s.setBuf b m).ledOff = s.ledOff := by cases b <;> rfl
@[simp] theorem State.setBuf_pos (s : State) (b : BufId) (m : Memory Color) : (s.setBuf b m).pos = s.pos := by cases b <;> rfl
@[simp] theorem State.setBuf_total (s : State) (b : BufId) (m : Memory Color) : (s.setBuf b m).total = s.total := by cases b <;> rfl
@[simp] theorem State.setBuf_nCur (s : State) (b : BufId) (m : Memory Color) : (s.setBuf b m).nCur = s.nCur := by cases b <;> rfl
@[simp] theorem State.setBuf_busy (s : State) (b : BufId) (m : Memory Color) : (s.setBuf b m).busy = s.busy := by cases b <;> rfl
@[simp] theorem State.setBuf_fsm (s : State) (b : BufId) (m : Memory Color) : (s.setBuf b m).fsm = s.fsm := by cases b <;> rfl
@[simp] theorem State.setBuf_psc (s : State) (b : BufId) (m : Memory Color) : (s.setBuf b m).psc = s.psc := by cases b <;> rfl
@[simp] theorem State.setBuf_arr (s : State) (b : BufId) (m : Memory Color) : (s.setBuf b m).arr = s.arr := by cases b <;> rfl
@[simp] theorem State.setBuf_cnt (s : State) (b : BufId) (m : Memory Color) : (s.setBuf b m).cnt = s.cnt := by cases b <;> rfl
@[simp] theorem State.setBuf_ccr (s : State) (b : BufId) (m : Memory Color) : (s.setBuf b m).ccr = s.ccr := by cases b <;> rfl
@[simp] theorem State.setBuf_timEn (s : State) (b : BufId) (m : Memory Color) : (s.setBuf b m).timEn = s.timEn := by cases b <;> rfl
@[simp] theorem State.setBuf_dmaEn (s : State) (b : BufId) (m : Memory Color) : (s.setBuf b m).dmaEn = s.dmaEn := by cases b <;> rfl
@[simp] theorem State.setBuf_dmaIdx (s : State) (b : BufId) (m : Memory Color) : (s.setBuf b m).dmaIdx = s.dmaIdx := by cases b <;> rfl
@[simp] theorem State.setBuf_htFlag (s : State) (b : BufId) (m : Memory Color) : (s.setBuf b m).htFlag = s.htFlag := by cases b <;> rfl
@[simp] theorem State.setBuf_tcFlag (s : State) (b : BufId) (m : Memory Color) : (s.setBuf b m).tcFlag = s.tcFlag := by cases b <;> rfl
@[simp] theorem State.setBuf_dmaConf (s : State) (b : BufId) (m : Memory Color) : (s.setBuf b m).dmaConf = s.dmaConf := by cases b <;> rfl
@[simp] theorem State.setBuf_outMode (s : State) (b : BufId) (m : Memory Color) : (s.setBuf b m).outMode = s.outMode := by cases b <;> rfl
@[simp] theorem State.setBuf_initialised (s : State) (b : BufId) (m : Memory Color) : (s.setBuf b m).initialised = s.initialised := by cases b <;> rfl
@[simp] theorem State.setBuf_fault (s : State) (b : BufId) (m : Memory Color) : (s.setBuf b m).fault = s.fault := by cases b <;> rfl
@[simp] theorem State.setBuf_wire (s : State) (b : BufId) (m : Memory Color) : (s.setBuf b m).wire = s.wire := by cases b <;> rfl
@[simp] theorem State.setBuf_frames (s : State) (b : BufId) (m : Memory Color) : (s.setBuf b m).frames = s.frames := by cases b <;> rfl
@[simp] theorem State.setBuf_cfg (s : State) (b : BufId) (m : Memory Color) : (s.setBuf b m).cfg = s.cfg := by cases b <;> rfl
@[simp] theorem State.setBuf_script (s : State) (b : BufId) (m : Memory Color) : (s.setBuf b m).script = s.script := by cases b <;> rfl
@[simp] theorem State.setBuf_held (s : State) (b : BufId) (m : Memory Color) : (s.setBuf b m).held = s.held := by cases b <;> rfl
@[simp] theorem State.setBuf_issuer (s : State) (b : BufId) (m : Memory Color) : (s.setBuf b m).issuer = s.issuer := by cases b <;> rfl
@[simp] theorem State.setBuf_draws (s : State) (b : BufId) (m : Memory Color) : (s.setBuf b m).draws = s.draws := by cases b <;> rfl
@[simp] theorem State.setBuf_ret (s : State) (b : BufId) (m : Memory Color) : (s.setBuf b m).ret = s.ret := by cases b <;> rfl
@[simp] theorem State.setBuf_levels (s : State) (b : BufId) (m : Memory Color) : (s.setBuf b m).levels = s.levels := by cases b <;> rfl

@[simp] theorem State.enterService_buf0 (s : State) (src : IrqSource) : (s.enterService src).buf0 = s.buf0 := by cases src <;> rfl
@[simp] theorem State.enterService_buf1 (s : State) (src : IrqSource) : (s.enterService src).buf1 = s.buf1 := by cases src <;> rfl
@[simp] theorem State.enterService_active (s : State) (src : IrqSource) : (s.enterService src).active = s.active := by cases src <;> rfl
@[simp] theorem State.enterService_scratch (s : State) (src : IrqSource) : (s.enterService src).scratch = s.scratch := by cases src <;> rfl
@[simp] theorem State.enterService_wrPos (s : State) (src : IrqSource) : (s.enterService src).wrPos = s.wrPos := by cases src <;> rfl
@[simp] theorem State.enterService_ledOff (s : State) (src : IrqSource) : (s.enterService src).ledOff = s.ledOff := by cases src <;> rfl
@[simp] theorem State.enterService_pos (s : State) (src : IrqSource) : (s.enterService src).pos = s.pos := by cases src <;> rfl
@[simp] theorem State.enterService_total (s : State) (src : IrqSource) : (s.enterService src).total = s.total := by cases src <;> rfl
@[simp] theorem State.enterService_nCur (s : State) (src : IrqSource) : (s.enterService src).nCur = s.nCur := by cases src <;> rfl
@[simp] theorem State.enterService_busy (s : State) (src : IrqSource) : (s.enterService src).busy = s.busy := by cases src <;> rfl
@[simp] theorem State.enterService_fsm (s : State) (src : IrqSource) : (s.enterService src).fsm = s.fsm := by cases src <;> rfl
@[simp] theorem State.enterService_psc (s : State) (src : IrqSource) : (s.enterService src).psc = s.psc := by cases src <;> rfl
@[simp] theorem State.enterService_arr (s : State) (src : IrqSource) : (s.enterService src).arr = s.arr := by cases src <;> rfl
@[simp] theorem State.enterService_cnt (s : State) (src : IrqSource) : (s.enterService src).cnt = s.cnt := by cases src <;> rfl
@[simp] theorem State.enterService_ccr (s : State) (src : IrqSource) : (s.enterService src).ccr = s.ccr := by cases src <;> rfl
@[simp] theorem State.enterService_timEn (s : State) (src : IrqSource) : (s.enterService src).timEn = s.timEn := by cases src <;> rfl
@[simp] theorem State.enterService_dmaEn (s : State) (src : IrqSource) : (s.enterService src).dmaEn = s.dmaEn := by cases src <;> rfl
@[simp] theorem State.enterService_dmaIdx (s : State) (src : IrqSource) : (s.enterService src).dmaIdx = s.dmaIdx := by cases src <;> rfl
@[simp] theorem State.enterService_dmaConf (s : State) (src : IrqSource) : (s.enterService src).dmaConf = s.dmaConf := by cases src <;> rfl
@[simp] theorem State.enterService_outMode (s : State) (src : IrqSource) : (s.enterService src).outMode = s.outMode := by cases src <;> rfl
@[simp] theorem State.enterService_initialised (s : State) (src : IrqSource) : (s.enterService src).initialised = s.initialised := by cases src <;> rfl
@[simp] theorem State.enterService_fault (s : State) (src : IrqSource) : (s.enterService src).fault = s.fault := by cases src <;> rfl
@[simp] theorem State.enterService_wire (s : State) (src : IrqSource) : (s.enterService src).wire = s.wire := by cases src <;> rfl
@[simp] theorem State.enterService_frames (s : State) (src : IrqSource) : (s.enterService src).frames = s.frames := by cases src <;> rfl
@[simp] theorem State.enterService_cfg (s : State) (src : IrqSource) : (s.enterService src).cfg = s.cfg := by cases src <;> rfl
@[simp] theorem State.enterService_script (s : State) (src : IrqSource) : (s.enterService src).script = s.script := by cases src <;> rfl
@[simp] theorem State.enterService_held (s : State) (src : IrqSource) : (s.enterService src).held = s.held := by cases src <;> rfl
@[simp] theorem State.enterService_issuer (s : State) (src : IrqSource) : (s.enterService src).issuer = s.issuer := by cases src <;> rfl
@[simp] theorem State.enterService_draws (s : State) (src : IrqSource) : (s.enterService src).draws = s.draws := by cases src <;> rfl
@[simp] theorem State.enterService_ret (s : State) (src : IrqSource) : (s.enterService src).ret = s.ret := by cases src <;> rfl
@[simp] theorem State.enterService_levels (s : State) (src : IrqSource) : (s.enterService src).levels = s.levels := by cases src <;> rfl

@[simp] theorem State.acknowledged_buf0 (s : State) (src : IrqSource) (p : Nat) : (s.acknowledged src p).buf0 = s.buf0 := by cases src <;> rfl
@[simp] theorem State.acknowledged_buf1 (s : State) (src : IrqSource) (p : Nat) : (s.acknowledged src p).buf1 = s.buf1 := by cases src <;> rfl
@[simp] theorem State.acknowledged_active (s : State) (src : IrqSource) (p : Nat) : (s.acknowledged src p).active = s.active := by cases src <;> rfl
@[simp] theorem State.acknowledged_scratch (s : State) (src : IrqSource) (p : Nat) : (s.acknowledged src p).scratch = s.scratch := by cases src <;> rfl
@[simp] theorem State.acknowledged_wrPos (s : State) (src : IrqSource) (p : Nat) : (s.acknowledged src p).wrPos = s.wrPos := by cases src <;> rfl
@[simp] theorem State.acknowledged_ledOff (s : State) (src : IrqSource) (p : Nat) : (s.acknowledged src p).ledOff = s.ledOff := by cases src <;> rfl
@[simp] theorem State.acknowledged_pos (s : State) (src : IrqSource) (p : Nat) : (s.acknowledged src p).pos = .val (p + s.cfg.bpl) := by cases src <;> rfl
@[simp] theorem State.acknowledged_total (s : State) (src : IrqSource) (p : Nat) : (s.acknowledged src p).total = s.total := by cases src <;> rfl
@[simp] theorem State.acknowledged_nCur (s : State) (src : IrqSource) (p : Nat) : (s.acknowledged src p).nCur = s.nCur := by cases src <;> rfl
@[simp] theorem State.acknowledged_busy (s : State) (src : IrqSource) (p : Nat) : (s.acknowledged src p).busy = s.busy := by cases src <;> rfl
@[simp] theorem State.acknowledged_fsm (s : State) (src : IrqSource) (p : Nat) : (s.acknowledged src p).fsm = s.fsm := by cases src <;> rfl
@[simp] theorem State.acknowledged_psc (s : State) (src : IrqSource) (p : Nat) : (s.acknowledged src p).psc = s.psc := by cases src <;> rfl
@[simp] theorem State.acknowledged_arr (s : State) (src : IrqSource) (p : Nat) : (s.acknowledged src p).arr = s.arr := by cases src <;> rfl
@[simp] theorem State.acknowledged_cnt (s : State) (src : IrqSource) (p : Nat) : (s.acknowledged src p).cnt = s.cnt := by cases src <;> rfl
@[simp] theorem State.acknowledged_ccr (s : State) (src : IrqSource) (p : Nat) : (s.acknowledged src p).ccr = s.ccr := by cases src <;> rfl
@[simp] theorem State.acknowledged_timEn (s : State) (src : IrqSource) (p : Nat) : (s.acknowledged src p).timEn = s.timEn := by cases src <;> rfl
@[simp] theorem State.acknowledged_dmaEn (s : State) (src : IrqSource) (p : Nat) : (s.acknowledged src p).dmaEn = s.dmaEn := by cases src <;> rfl
@[simp] theorem State.acknowledged_dmaIdx (s : State) (src : IrqSource) (p : Nat) : (s.acknowledged src p).dmaIdx = s.dmaIdx := by cases src <;> rfl
@[simp] theorem State.acknowledged_dmaConf (s : State) (src : IrqSource) (p : Nat) : (s.acknowledged src p).dmaConf = s.dmaConf := by cases src <;> rfl
@[simp] theorem State.acknowledged_outMode (s : State) (src : IrqSource) (p : Nat) : (s.acknowledged src p).outMode = s.outMode := by cases src <;> rfl
@[simp] theorem State.acknowledged_initialised (s : State) (src : IrqSource) (p : Nat) : (s.acknowledged src p).initialised = s.initialised := by cases src <;> rfl
@[simp] theorem State.acknowledged_fault (s : State) (src : IrqSource) (p : Nat) : (s.acknowledged src p).fault = s.fault := by cases src <;> rfl
@[simp] theorem State.acknowledged_wire (s : State) (src : IrqSource) (p : Nat) : (s.acknowledged src p).wire = s.wire := by cases src <;> rfl
@[simp] theorem State.acknowledged_frames (s : State) (src : IrqSource) (p : Nat) : (s.acknowledged src p).frames = s.frames := by cases src <;> rfl
@[simp] theorem State.acknowledged_cfg (s : State) (src : IrqSource) (p : Nat) : (s.acknowledged src p).cfg = s.cfg := by cases src <;> rfl
@[simp] theorem State.acknowledged_script (s : State) (src : IrqSource) (p : Nat) : (s.acknowledged src p).script = s.script := by cases src <;> rfl
@[simp] theorem State.acknowledged_held (s : State) (src : IrqSource) (p : Nat) : (s.acknowledged src p).held = s.held := by cases src <;> rfl
@[simp] theorem State.acknowledged_issuer (s : State) (src : IrqSource) (p : Nat) : (s.acknowledged src p).issuer = s.issuer := by cases src <;> rfl
@[simp] theorem State.acknowledged_draws (s : State) (src : IrqSource) (p : Nat) : (s.acknowledged src p).draws = s.draws := by cases src <;> rfl
@[simp] theorem State.acknowledged_ret (s : State) (src : IrqSource) (p : Nat) : (s.acknowledged src p).ret = s.ret := by cases src <;> rfl
@[simp] theorem State.acknowledged_levels (s : State) (src : IrqSource) (p : Nat) : (s.acknowledged src p).levels = s.levels := by cases src <;> rfl

@[simp] theorem State.leaveService_buf0 (s : State) : s.leaveService.buf0 = s.buf0 := rfl
@[simp] theorem State.leaveService_buf1 (s : State) : s.leaveService.buf1 = s.buf1 := rfl
@[simp] theorem State.leaveService_active (s : State) : s.leaveService.active = s.active := rfl
@[simp] theorem State.leaveService_scratch (s : State) : s.leaveService.scratch = s.scratch := rfl
@[simp] theorem State.leaveService_wrPos (s : State) : s.leaveService.wrPos = s.wrPos := rfl
@[simp] theorem State.leaveService_ledOff (s : State) : s.leaveService.ledOff = s.ledOff := rfl
@[simp] theorem State.leaveService_pos (s : State) : s.leaveService.pos = s.pos := rfl
@[simp] theorem State.leaveService_total (s : State) : s.leaveService.total = s.total := rfl
@[simp] theorem State.leaveService_nCur (s : State) : s.leaveService.nCur = s.nCur := rfl
@[simp] theorem State.leaveService_busy (s : State) : s.leaveService.busy = s.busy := rfl
@[simp] theorem State.leaveService_fsm (s : State) : s.leaveService.fsm = s.fsm := rfl
@[simp] theorem State.leaveService_psc (s : State) : s.leaveService.psc = s.psc := rfl
@[simp] theorem State.leaveService_arr (s : State) : s.leaveService.arr = s.arr := rfl
@[simp] theorem State.leaveService_cnt (s : State) : s.leaveService.cnt = s.cnt := rfl
@[simp] theorem State.leaveService_ccr (s : State) : s.leaveService.ccr = s.ccr := rfl
@[simp] theorem State.leaveService_timEn (s : State) : s.leaveService.timEn = s.timEn := rfl
@[simp] theorem State.leaveService_dmaEn (s : State) : s.leaveService.dmaEn = s.dmaEn := rfl
@[simp] theorem State.leaveService_dmaIdx (s : State) : s.leaveService.dmaIdx = s.dmaIdx := rfl
@[simp] theorem State.leaveService_htFlag (s : State) : s.leaveService.htFlag = s.htFlag := rfl
@[simp] theorem State.leaveService_tcFlag (s : State) : s.leaveService.tcFlag = s.tcFlag := rfl
@[simp] theorem State.leaveService_dmaConf (s : State) : s.leaveService.dmaConf = s.dmaConf := rfl
@[simp] theorem State.leaveService_outMode (s : State) : s.leaveService.outMode = s.outMode := rfl
@[simp] theorem State.leaveService_initialised (s : State) : s.leaveService.initialised = s.initialised := rfl
@[simp] theorem State.leaveService_fault (s : State) : s.leaveService.fault = s.fault := rfl
@[simp] theorem State.leaveService_wire (s : State) : s.leaveService.wire = s.wire := rfl
@[simp] theorem State.leaveService_frames (s : State) : s.leaveService.frames = s.frames := rfl
@[simp] theorem State.leaveService_cfg (s : State) : s.leaveService.cfg = s.cfg := rfl
@[simp] theorem State.leaveService_script (s : State) : s.leaveService.script = s.script := rfl
@[simp] theorem State.leaveService_held (s : State) : s.leaveService.held = s.held := rfl
@[simp] theorem State.leaveService_issuer (s : State) : s.leaveService.issuer = s.issuer := rfl
@[simp] theorem State.leaveService_draws (s : State) : s.leaveService.draws = s.draws := rfl
@[simp] theorem State.leaveService_ret (s : State) : s.leaveService.ret = s.ret := rfl
@[simp] theorem State.leaveService_levels (s : State) : s.leaveService.levels = s.levels := rfl

@[simp] theorem State.startCursor_buf0 (s : State) (n : Nat) : (s.startCursor n).buf0 = s.buf0 := rfl
@[simp] theorem State.startCursor_buf1 (s : State) (n : Nat) : (s.startCursor n).buf1 = s.buf1 := rfl
@[simp] theorem State.startCursor_active (s : State) (n : Nat) : (s.startCursor n).active = s.active := rfl
@[simp] theorem State.startCursor_scratch (s : State) (n : Nat) : (s.startCursor n).scratch = s.scratch := rfl
@[simp] theorem State.startCursor_wrPos (s : State) (n : Nat) : (s.startCursor n).wrPos = .val 0 := rfl
@[simp] theorem State.startCursor_ledOff (s : State) (n : Nat) : (s.startCursor n).ledOff = .val 0 := rfl
@[simp] theorem State.startCursor_pos (s : State) (n : Nat) : (s.startCursor n).pos = .val 0 := rfl
@[simp] theorem State.startCursor_total (s : State) (n : Nat) : (s.startCursor n).total = .val (s.cfg.frameLen n) := rfl
@[simp] theorem State.startCursor_nCur (s : State) (n : Nat) : (s.startCursor n).nCur = .val n := rfl
@[simp] theorem State.startCursor_busy (s : State) (n : Nat) : (s.startCursor n).busy = s.busy := rfl
@[simp] theorem State.startCursor_fsm (s : State) (n : Nat) : (s.startCursor n).fsm = s.fsm := rfl
@[simp] theorem State.startCursor_psc (s : State) (n : Nat) : (s.startCursor n).psc = s.psc := rfl
@[simp] theorem State.startCursor_arr (s : State) (n : Nat) : (s.startCursor n).arr = s.arr := rfl
@[simp] theorem State.startCursor_cnt (s : State) (n : Nat) : (s.startCursor n).cnt = s.cnt := rfl
@[simp] theorem State.startCursor_ccr (s : State) (n : Nat) : (s.startCursor n).ccr = s.ccr := rfl
@[simp] theorem State.startCursor_timEn (s : State) (n : Nat) : (s.startCursor n).timEn = s.timEn := rfl
@[simp] theorem State.startCursor_dmaEn (s : State) (n : Nat) : (s.startCursor n).dmaEn = s.dmaEn := rfl
@[simp] theorem State.startCursor_dmaIdx (s : State) (n : Nat) : (s.startCursor n).dmaIdx = s.dmaIdx := rfl
@[simp] theorem State.startCursor_htFlag (s : State) (n : Nat) : (s.startCursor n).htFlag = s.htFlag := rfl
@[simp] theorem State.startCursor_tcFlag (s : State) (n : Nat) : (s.startCursor n).tcFlag = s.tcFlag := rfl
@[simp] theorem State.startCursor_dmaConf (s : State) (n : Nat) : (s.startCursor n).dmaConf = s.dmaConf := rfl
@[simp] theorem State.startCursor_outMode (s : State) (n : Nat) : (s.startCursor n).outMode = s.outMode := rfl
@[simp] theorem State.startCursor_initialised (s : State) (n : Nat) : (s.startCursor n).initialised = s.initialised := rfl
@[simp] theorem State.startCursor_fault (s : State) (n : Nat) : (s.startCursor n).fault = s.fault := rfl
@[simp] theorem State.startCursor_wire (s : State) (n : Nat) : (s.startCursor n).wire = s.wire := rfl
@[simp] theorem State.startCursor_frames (s : State) (n : Nat) : (s.startCursor n).frames = s.frames := rfl
@[simp] theorem State.startCursor_cfg (s : State) (n : Nat) : (s.startCursor n).cfg = s.cfg := rfl
@[simp] theorem State.startCursor_script (s : State) (n : Nat) : (s.startCursor n).script = s.script := rfl
@[simp] theorem State.startCursor_held (s : State) (n : Nat) : (s.startCursor n).held = s.held := rfl
@[simp] theorem State.startCursor_issuer (s : State) (n : Nat) : (s.startCursor n).issuer = s.issuer := rfl
@[simp] theorem State.startCursor_draws (s : State) (n : Nat) : (s.startCursor n).draws = s.draws := rfl
@[simp] theorem State.startCursor_ret (s : State) (n : Nat) : (s.startCursor n).ret = s.ret := rfl
@[simp] theorem State.startCursor_levels (s : State) (n : Nat) : (s.startCursor n).levels = s.levels := rfl

@[simp] theorem State.armed_buf0 (s : State) : s.armed.buf0 = s.buf0 := rfl
@[simp] theorem State.armed_buf1 (s : State) : s.armed.buf1 = s.buf1 := rfl
@[simp] theorem State.armed_active (s : State) : s.armed.active = s.active := rfl
@[simp] theorem State.armed_scratch (s : State) : s.armed.scratch = s.scratch := rfl
@[simp] theorem State.armed_wrPos (s : State) : s.armed.wrPos = s.wrPos := rfl
@[simp] theorem State.armed_ledOff (s : State) : s.armed.ledOff = s.ledOff := rfl
@[simp] theorem State.armed_pos (s : State) : s.armed.pos = s.pos := rfl
@[simp] theorem State.armed_total (s : State) : s.armed.total = s.total := rfl
@[simp] theorem State.armed_nCur (s : State) : s.armed.nCur = s.nCur := rfl
@[simp] theorem State.armed_busy (s : State) : s.armed.busy = true := rfl
@[simp] theorem State.armed_fsm (s : State) : s.armed.fsm = .armed := rfl
@[simp] theorem State.armed_psc (s : State) : s.armed.psc = s.psc := rfl
@[simp] theorem State.armed_arr (s : State) : s.armed.arr = s.arr := rfl
@[simp] theorem State.armed_cnt (s : State) : s.armed.cnt = .val 0 := rfl
@[simp] theorem State.armed_ccr (s : State) : s.armed.ccr = s.ccr := rfl
@[simp] theorem State.armed_timEn (s : State) : s.armed.timEn = true := rfl
@[simp] theorem State.armed_dmaEn (s : State) : s.armed.dmaEn = true := rfl
@[simp] theorem State.armed_dmaIdx (s : State) : s.armed.dmaIdx = .val 0 := rfl
@[simp] theorem State.armed_htFlag (s : State) : s.armed.htFlag = false := rfl
@[simp] theorem State.armed_tcFlag (s : State) : s.armed.tcFlag = false := rfl
@[simp] theorem State.armed_dmaConf (s : State) : s.armed.dmaConf = s.dmaConf := rfl
@[simp] theorem State.armed_outMode (s : State) : s.armed.outMode = s.outMode := rfl
@[simp] theorem State.armed_initialised (s : State) : s.armed.initialised = s.initialised := rfl
@[simp] theorem State.armed_fault (s : State) : s.armed.fault = s.fault := rfl
@[simp] theorem State.armed_wire (s : State) : s.armed.wire = [] := rfl
@[simp] theorem State.armed_frames (s : State) : s.armed.frames = s.frames := rfl
@[simp] theorem State.armed_cfg (s : State) : s.armed.cfg = s.cfg := rfl
@[simp] theorem State.armed_script (s : State) : s.armed.script = s.script := rfl
@[simp] theorem State.armed_held (s : State) : s.armed.held = s.held := rfl
@[simp] theorem State.armed_issuer (s : State) : s.armed.issuer = s.issuer := rfl
@[simp] theorem State.armed_draws (s : State) : s.armed.draws = s.draws := rfl
@[simp] theorem State.armed_ret (s : State) : s.armed.ret = s.ret := rfl
@[simp] theorem State.armed_levels (s : State) : s.armed.levels = [] := rfl

@[simp] theorem State.disarmed_buf0 (s : State) : s.disarmed.buf0 = s.buf0 := rfl
@[simp] theorem State.disarmed_buf1 (s : State) : s.disarmed.buf1 = s.buf1 := rfl
@[simp] theorem State.disarmed_active (s : State) : s.disarmed.active = s.active := rfl
@[simp] theorem State.disarmed_scratch (s : State) : s.disarmed.scratch = s.scratch := rfl
@[simp] theorem State.disarmed_wrPos (s : State) : s.disarmed.wrPos = s.wrPos := rfl
@[simp] theorem State.disarmed_ledOff (s : State) : s.disarmed.ledOff = s.ledOff := rfl
@[simp] theorem State.disarmed_pos (s : State) : s.disarmed.pos = s.pos := rfl
@[simp] theorem State.disarmed_total (s : State) : s.disarmed.total = s.total := rfl
@[simp] theorem State.disarmed_nCur (s : State) : s.disarmed.nCur = s.nCur := rfl
@[simp] theorem State.disarmed_busy (s : State) : s.disarmed.busy = false := rfl
@[simp] theorem State.disarmed_fsm (s : State) : s.disarmed.fsm = .idle := rfl
@[simp] theorem State.disarmed_psc (s : State) : s.disarmed.psc = s.psc := rfl
@[simp] theorem State.disarmed_arr (s : State) : s.disarmed.arr = s.arr := rfl
@[simp] theorem State.disarmed_cnt (s : State) : s.disarmed.cnt = s.cnt := rfl
@[simp] theorem State.disarmed_ccr (s : State) : s.disarmed.ccr = s.ccr := rfl
@[simp] theorem State.disarmed_timEn (s : State) : s.disarmed.timEn = false := rfl
@[simp] theorem State.disarmed_dmaEn (s : State) : s.disarmed.dmaEn = false := rfl
@[simp] theorem State.disarmed_dmaIdx (s : State) : s.disarmed.dmaIdx = s.dmaIdx := rfl
@[simp] theorem State.disarmed_htFlag (s : State) : s.disarmed.htFlag = s.htFlag := rfl
@[simp] theorem State.disarmed_tcFlag (s : State) : s.disarmed.tcFlag = s.tcFlag := rfl
@[simp] theorem State.disarmed_dmaConf (s : State) : s.disarmed.dmaConf = s.dmaConf := rfl
@[simp] theorem State.disarmed_outMode (s : State) : s.disarmed.outMode = s.outMode := rfl
@[simp] theorem State.disarmed_initialised (s : State) : s.disarmed.initialised = s.initialised := rfl
@[simp] theorem State.disarmed_fault (s : State) : s.disarmed.fault = s.fault := rfl
@[simp] theorem State.disarmed_wire (s : State) : s.disarmed.wire = s.wire := rfl
@[simp] theorem State.disarmed_frames (s : State) : s.disarmed.frames = s.frames ++ [s.wire] := rfl
@[simp] theorem State.disarmed_cfg (s : State) : s.disarmed.cfg = s.cfg := rfl
@[simp] theorem State.disarmed_script (s : State) : s.disarmed.script = s.script := rfl
@[simp] theorem State.disarmed_held (s : State) : s.disarmed.held = s.held := rfl
@[simp] theorem State.disarmed_issuer (s : State) : s.disarmed.issuer = s.issuer := rfl
@[simp] theorem State.disarmed_draws (s : State) : s.disarmed.draws = s.draws := rfl
@[simp] theorem State.disarmed_ret (s : State) : s.disarmed.ret = s.ret := rfl
@[simp] theorem State.disarmed_levels (s : State) : s.disarmed.levels = s.levels := rfl

@[simp] theorem State.loaded_buf0 (s : State) (v : CompareWord) (next : Nat) : (s.loaded v next).buf0 = s.buf0 := rfl
@[simp] theorem State.loaded_buf1 (s : State) (v : CompareWord) (next : Nat) : (s.loaded v next).buf1 = s.buf1 := rfl
@[simp] theorem State.loaded_active (s : State) (v : CompareWord) (next : Nat) : (s.loaded v next).active = s.active := rfl
@[simp] theorem State.loaded_scratch (s : State) (v : CompareWord) (next : Nat) : (s.loaded v next).scratch = s.scratch := rfl
@[simp] theorem State.loaded_wrPos (s : State) (v : CompareWord) (next : Nat) : (s.loaded v next).wrPos = s.wrPos := rfl
@[simp] theorem State.loaded_ledOff (s : State) (v : CompareWord) (next : Nat) : (s.loaded v next).ledOff = s.ledOff := rfl
@[simp] theorem State.loaded_pos (s : State) (v : CompareWord) (next : Nat) : (s.loaded v next).pos = s.pos := rfl
@[simp] theorem State.loaded_total (s : State) (v : CompareWord) (next : Nat) : (s.loaded v next).total = s.total := rfl
@[simp] theorem State.loaded_nCur (s : State) (v : CompareWord) (next : Nat) : (s.loaded v next).nCur = s.nCur := rfl
@[simp] theorem State.loaded_busy (s : State) (v : CompareWord) (next : Nat) : (s.loaded v next).busy = s.busy := rfl
@[simp] theorem State.loaded_fsm (s : State) (v : CompareWord) (next : Nat) : (s.loaded v next).fsm = started s.fsm := rfl
@[simp] theorem State.loaded_psc (s : State) (v : CompareWord) (next : Nat) : (s.loaded v next).psc = s.psc := rfl
@[simp] theorem State.loaded_arr (s : State) (v : CompareWord) (next : Nat) : (s.loaded v next).arr = s.arr := rfl
@[simp] theorem State.loaded_cnt (s : State) (v : CompareWord) (next : Nat) : (s.loaded v next).cnt = s.cnt := rfl
@[simp] theorem State.loaded_ccr (s : State) (v : CompareWord) (next : Nat) : (s.loaded v next).ccr = .val v := rfl
@[simp] theorem State.loaded_timEn (s : State) (v : CompareWord) (next : Nat) : (s.loaded v next).timEn = s.timEn := rfl
@[simp] theorem State.loaded_dmaEn (s : State) (v : CompareWord) (next : Nat) : (s.loaded v next).dmaEn = s.dmaEn := rfl
@[simp] theorem State.loaded_dmaIdx (s : State) (v : CompareWord) (next : Nat) : (s.loaded v next).dmaIdx = .val next := rfl
@[simp] theorem State.loaded_htFlag (s : State) (v : CompareWord) (next : Nat) : (s.loaded v next).htFlag = s.htFlag := rfl
@[simp] theorem State.loaded_tcFlag (s : State) (v : CompareWord) (next : Nat) : (s.loaded v next).tcFlag = s.tcFlag := rfl
@[simp] theorem State.loaded_dmaConf (s : State) (v : CompareWord) (next : Nat) : (s.loaded v next).dmaConf = s.dmaConf := rfl
@[simp] theorem State.loaded_outMode (s : State) (v : CompareWord) (next : Nat) : (s.loaded v next).outMode = s.outMode := rfl
@[simp] theorem State.loaded_initialised (s : State) (v : CompareWord) (next : Nat) : (s.loaded v next).initialised = s.initialised := rfl
@[simp] theorem State.loaded_fault (s : State) (v : CompareWord) (next : Nat) : (s.loaded v next).fault = s.fault := rfl
@[simp] theorem State.loaded_wire (s : State) (v : CompareWord) (next : Nat) : (s.loaded v next).wire = s.wire ++ [v] := rfl
@[simp] theorem State.loaded_frames (s : State) (v : CompareWord) (next : Nat) : (s.loaded v next).frames = s.frames := rfl
@[simp] theorem State.loaded_cfg (s : State) (v : CompareWord) (next : Nat) : (s.loaded v next).cfg = s.cfg := rfl
@[simp] theorem State.loaded_script (s : State) (v : CompareWord) (next : Nat) : (s.loaded v next).script = s.script := rfl
@[simp] theorem State.loaded_held (s : State) (v : CompareWord) (next : Nat) : (s.loaded v next).held = s.held := rfl
@[simp] theorem State.loaded_issuer (s : State) (v : CompareWord) (next : Nat) : (s.loaded v next).issuer = s.issuer := rfl
@[simp] theorem State.loaded_draws (s : State) (v : CompareWord) (next : Nat) : (s.loaded v next).draws = s.draws := rfl
@[simp] theorem State.loaded_ret (s : State) (v : CompareWord) (next : Nat) : (s.loaded v next).ret = s.ret := rfl
@[simp] theorem State.loaded_levels (s : State) (v : CompareWord) (next : Nat) : (s.loaded v next).levels = s.levels := rfl

@[simp] theorem State.initHardware_buf0 (s : State) : s.initHardware.buf0 = s.buf0 := rfl
@[simp] theorem State.initHardware_buf1 (s : State) : s.initHardware.buf1 = s.buf1 := rfl
@[simp] theorem State.initHardware_active (s : State) : s.initHardware.active = .val .b0 := rfl
@[simp] theorem State.initHardware_scratch (s : State) : s.initHardware.scratch = s.scratch := rfl
@[simp] theorem State.initHardware_wrPos (s : State) : s.initHardware.wrPos = s.wrPos := rfl
@[simp] theorem State.initHardware_ledOff (s : State) : s.initHardware.ledOff = s.ledOff := rfl
@[simp] theorem State.initHardware_pos (s : State) : s.initHardware.pos = s.pos := rfl
@[simp] theorem State.initHardware_total (s : State) : s.initHardware.total = s.total := rfl
@[simp] theorem State.initHardware_nCur (s : State) : s.initHardware.nCur = s.nCur := rfl
@[simp] theorem State.initHardware_busy (s : State) : s.initHardware.busy = false := rfl
@[simp] theorem State.initHardware_fsm (s : State) : s.initHardware.fsm = .idle := rfl
@[simp] theorem State.initHardware_psc (s : State) : s.initHardware.psc = s.psc := rfl
@[simp] theorem State.initHardware_arr (s : State) : s.initHardware.arr = .val s.cfg.table.periodTicks := rfl
@[simp] theorem State.initHardware_cnt (s : State) : s.initHardware.cnt = .val 0 := rfl
@[simp] theorem State.initHardware_ccr (s : State) : s.initHardware.ccr = .val 0 := rfl
@[simp] theorem State.initHardware_timEn (s : State) : s.initHardware.timEn = false := rfl
@[simp] theorem State.initHardware_dmaEn (s : State) : s.initHardware.dmaEn = false := rfl
@[simp] theorem State.initHardware_dmaIdx (s : State) : s.initHardware.dmaIdx = .val 0 := rfl
@[simp] theorem State.initHardware_htFlag (s : State) : s.initHardware.htFlag = false := rfl
@[simp] theorem State.initHardware_tcFlag (s : State) : s.initHardware.tcFlag = false := rfl
@[simp] theorem State.initHardware_dmaConf (s : State) : s.initHardware.dmaConf = .val (dmaConfOf s.cfg) := rfl
@[simp] theorem State.initHardware_outMode (s : State) : s.initHardware.outMode = outModeOf (Config.pinSample s.draws) := rfl
@[simp] theorem State.initHardware_initialised (s : State) : s.initHardware.initialised = true := rfl
@[simp] theorem State.initHardware_fault (s : State) : s.initHardware.fault = s.fault := rfl
@[simp] theorem State.initHardware_wire (s : State) : s.initHardware.wire = [] := rfl
@[simp] theorem State.initHardware_frames (s : State) : s.initHardware.frames = [] := rfl
@[simp] theorem State.initHardware_cfg (s : State) : s.initHardware.cfg = s.cfg := rfl
@[simp] theorem State.initHardware_script (s : State) : s.initHardware.script = s.script := rfl
@[simp] theorem State.initHardware_held (s : State) : s.initHardware.held = s.held := rfl
@[simp] theorem State.initHardware_issuer (s : State) : s.initHardware.issuer = s.issuer := rfl
@[simp] theorem State.initHardware_draws (s : State) : s.initHardware.draws = s.draws + 1 := rfl
@[simp] theorem State.initHardware_ret (s : State) : s.initHardware.ret = s.ret := rfl
@[simp] theorem State.initHardware_levels (s : State) : s.initHardware.levels = s.levels := rfl

@[simp] theorem State.waitingAt_buf0 (s : State) (nLeds : Nat) : (s.waitingAt nLeds).buf0 = s.buf0 := rfl
@[simp] theorem State.waitingAt_buf1 (s : State) (nLeds : Nat) : (s.waitingAt nLeds).buf1 = s.buf1 := rfl
@[simp] theorem State.waitingAt_active (s : State) (nLeds : Nat) : (s.waitingAt nLeds).active = s.active := rfl
@[simp] theorem State.waitingAt_scratch (s : State) (nLeds : Nat) : (s.waitingAt nLeds).scratch = s.scratch := rfl
@[simp] theorem State.waitingAt_wrPos (s : State) (nLeds : Nat) : (s.waitingAt nLeds).wrPos = s.wrPos := rfl
@[simp] theorem State.waitingAt_ledOff (s : State) (nLeds : Nat) : (s.waitingAt nLeds).ledOff = s.ledOff := rfl
@[simp] theorem State.waitingAt_pos (s : State) (nLeds : Nat) : (s.waitingAt nLeds).pos = s.pos := rfl
@[simp] theorem State.waitingAt_total (s : State) (nLeds : Nat) : (s.waitingAt nLeds).total = s.total := rfl
@[simp] theorem State.waitingAt_nCur (s : State) (nLeds : Nat) : (s.waitingAt nLeds).nCur = s.nCur := rfl
@[simp] theorem State.waitingAt_busy (s : State) (nLeds : Nat) : (s.waitingAt nLeds).busy = s.busy := rfl
@[simp] theorem State.waitingAt_fsm (s : State) (nLeds : Nat) : (s.waitingAt nLeds).fsm = s.fsm := rfl
@[simp] theorem State.waitingAt_psc (s : State) (nLeds : Nat) : (s.waitingAt nLeds).psc = s.psc := rfl
@[simp] theorem State.waitingAt_arr (s : State) (nLeds : Nat) : (s.waitingAt nLeds).arr = s.arr := rfl
@[simp] theorem State.waitingAt_cnt (s : State) (nLeds : Nat) : (s.waitingAt nLeds).cnt = s.cnt := rfl
@[simp] theorem State.waitingAt_ccr (s : State) (nLeds : Nat) : (s.waitingAt nLeds).ccr = s.ccr := rfl
@[simp] theorem State.waitingAt_timEn (s : State) (nLeds : Nat) : (s.waitingAt nLeds).timEn = s.timEn := rfl
@[simp] theorem State.waitingAt_dmaEn (s : State) (nLeds : Nat) : (s.waitingAt nLeds).dmaEn = s.dmaEn := rfl
@[simp] theorem State.waitingAt_dmaIdx (s : State) (nLeds : Nat) : (s.waitingAt nLeds).dmaIdx = s.dmaIdx := rfl
@[simp] theorem State.waitingAt_htFlag (s : State) (nLeds : Nat) : (s.waitingAt nLeds).htFlag = s.htFlag := rfl
@[simp] theorem State.waitingAt_tcFlag (s : State) (nLeds : Nat) : (s.waitingAt nLeds).tcFlag = s.tcFlag := rfl
@[simp] theorem State.waitingAt_dmaConf (s : State) (nLeds : Nat) : (s.waitingAt nLeds).dmaConf = s.dmaConf := rfl
@[simp] theorem State.waitingAt_outMode (s : State) (nLeds : Nat) : (s.waitingAt nLeds).outMode = s.outMode := rfl
@[simp] theorem State.waitingAt_initialised (s : State) (nLeds : Nat) : (s.waitingAt nLeds).initialised = s.initialised := rfl
@[simp] theorem State.waitingAt_fault (s : State) (nLeds : Nat) : (s.waitingAt nLeds).fault = s.fault := rfl
@[simp] theorem State.waitingAt_wire (s : State) (nLeds : Nat) : (s.waitingAt nLeds).wire = s.wire := rfl
@[simp] theorem State.waitingAt_frames (s : State) (nLeds : Nat) : (s.waitingAt nLeds).frames = s.frames := rfl
@[simp] theorem State.waitingAt_cfg (s : State) (nLeds : Nat) : (s.waitingAt nLeds).cfg = s.cfg := rfl
@[simp] theorem State.waitingAt_script (s : State) (nLeds : Nat) : (s.waitingAt nLeds).script = s.script := rfl
@[simp] theorem State.waitingAt_held (s : State) (nLeds : Nat) : (s.waitingAt nLeds).held = some nLeds := rfl
@[simp] theorem State.waitingAt_issuer (s : State) (nLeds : Nat) : (s.waitingAt nLeds).issuer = s.issuer := rfl
@[simp] theorem State.waitingAt_draws (s : State) (nLeds : Nat) : (s.waitingAt nLeds).draws = s.draws := rfl
@[simp] theorem State.waitingAt_ret (s : State) (nLeds : Nat) : (s.waitingAt nLeds).ret = s.ret := rfl
@[simp] theorem State.waitingAt_levels (s : State) (nLeds : Nat) : (s.waitingAt nLeds).levels = s.levels := rfl

@[simp] theorem State.withRequest_buf0 (s : State) (bytes : List Byte) : (s.withRequest bytes).buf0 = s.buf0 := rfl
@[simp] theorem State.withRequest_buf1 (s : State) (bytes : List Byte) : (s.withRequest bytes).buf1 = s.buf1 := rfl
@[simp] theorem State.withRequest_active (s : State) (bytes : List Byte) : (s.withRequest bytes).active = s.active := rfl
@[simp] theorem State.withRequest_scratch (s : State) (bytes : List Byte) : (s.withRequest bytes).scratch = s.scratch := rfl
@[simp] theorem State.withRequest_wrPos (s : State) (bytes : List Byte) : (s.withRequest bytes).wrPos = s.wrPos := rfl
@[simp] theorem State.withRequest_ledOff (s : State) (bytes : List Byte) : (s.withRequest bytes).ledOff = s.ledOff := rfl
@[simp] theorem State.withRequest_pos (s : State) (bytes : List Byte) : (s.withRequest bytes).pos = s.pos := rfl
@[simp] theorem State.withRequest_total (s : State) (bytes : List Byte) : (s.withRequest bytes).total = s.total := rfl
@[simp] theorem State.withRequest_nCur (s : State) (bytes : List Byte) : (s.withRequest bytes).nCur = s.nCur := rfl
@[simp] theorem State.withRequest_busy (s : State) (bytes : List Byte) : (s.withRequest bytes).busy = s.busy := rfl
@[simp] theorem State.withRequest_fsm (s : State) (bytes : List Byte) : (s.withRequest bytes).fsm = s.fsm := rfl
@[simp] theorem State.withRequest_psc (s : State) (bytes : List Byte) : (s.withRequest bytes).psc = s.psc := rfl
@[simp] theorem State.withRequest_arr (s : State) (bytes : List Byte) : (s.withRequest bytes).arr = s.arr := rfl
@[simp] theorem State.withRequest_cnt (s : State) (bytes : List Byte) : (s.withRequest bytes).cnt = s.cnt := rfl
@[simp] theorem State.withRequest_ccr (s : State) (bytes : List Byte) : (s.withRequest bytes).ccr = s.ccr := rfl
@[simp] theorem State.withRequest_timEn (s : State) (bytes : List Byte) : (s.withRequest bytes).timEn = s.timEn := rfl
@[simp] theorem State.withRequest_dmaEn (s : State) (bytes : List Byte) : (s.withRequest bytes).dmaEn = s.dmaEn := rfl
@[simp] theorem State.withRequest_dmaIdx (s : State) (bytes : List Byte) : (s.withRequest bytes).dmaIdx = s.dmaIdx := rfl
@[simp] theorem State.withRequest_htFlag (s : State) (bytes : List Byte) : (s.withRequest bytes).htFlag = s.htFlag := rfl
@[simp] theorem State.withRequest_tcFlag (s : State) (bytes : List Byte) : (s.withRequest bytes).tcFlag = s.tcFlag := rfl
@[simp] theorem State.withRequest_dmaConf (s : State) (bytes : List Byte) : (s.withRequest bytes).dmaConf = s.dmaConf := rfl
@[simp] theorem State.withRequest_outMode (s : State) (bytes : List Byte) : (s.withRequest bytes).outMode = s.outMode := rfl
@[simp] theorem State.withRequest_initialised (s : State) (bytes : List Byte) : (s.withRequest bytes).initialised = s.initialised := rfl
@[simp] theorem State.withRequest_fault (s : State) (bytes : List Byte) : (s.withRequest bytes).fault = s.fault := rfl
@[simp] theorem State.withRequest_wire (s : State) (bytes : List Byte) : (s.withRequest bytes).wire = s.wire := rfl
@[simp] theorem State.withRequest_frames (s : State) (bytes : List Byte) : (s.withRequest bytes).frames = s.frames := rfl
@[simp] theorem State.withRequest_cfg (s : State) (bytes : List Byte) : (s.withRequest bytes).cfg = s.cfg := rfl
@[simp] theorem State.withRequest_script (s : State) (bytes : List Byte) : (s.withRequest bytes).script =
    ⟨issuerOf s.cfg.params.order bytes, .word bytes⟩ :: s.script := rfl
@[simp] theorem State.withRequest_held (s : State) (bytes : List Byte) : (s.withRequest bytes).held = none := rfl
@[simp] theorem State.withRequest_issuer (s : State) (bytes : List Byte) : (s.withRequest bytes).issuer = s.issuer := rfl
@[simp] theorem State.withRequest_draws (s : State) (bytes : List Byte) : (s.withRequest bytes).draws = s.draws := rfl
@[simp] theorem State.withRequest_ret (s : State) (bytes : List Byte) : (s.withRequest bytes).ret = s.ret := rfl
@[simp] theorem State.withRequest_levels (s : State) (bytes : List Byte) : (s.withRequest bytes).levels = s.levels := rfl

@[simp] theorem State.setBuf_buf_same (s : State) (b : BufId) (m : Memory Color) : (s.setBuf b m).buf b = m := by
  cases b <;> rfl
@[simp] theorem State.setBuf_other_buf (s : State) (b : BufId) (m : Memory Color) :
    (s.setBuf b.other m).buf b = s.buf b := by
  cases b <;> rfl
@[simp] theorem State.setBuf_maxLeds (s : State) (b : BufId) (m : Memory Color) : (s.setBuf b m).maxLeds = s.maxLeds := by
  cases b <;> rfl
@[simp] theorem State.enterService_half_htFlag (s : State) : (s.enterService .halfTransfer).htFlag = false := rfl
@[simp] theorem State.enterService_half_tcFlag (s : State) : (s.enterService .halfTransfer).tcFlag = s.tcFlag := rfl
@[simp] theorem State.enterService_complete_htFlag (s : State) : (s.enterService .transferComplete).htFlag = s.htFlag := rfl
@[simp] theorem State.enterService_complete_tcFlag (s : State) : (s.enterService .transferComplete).tcFlag = false := rfl
@[simp] theorem State.acknowledged_half_htFlag (s : State) (p : Nat) :
    (s.acknowledged .halfTransfer p).htFlag = false := rfl
@[simp] theorem State.acknowledged_half_tcFlag (s : State) (p : Nat) :
    (s.acknowledged .halfTransfer p).tcFlag = s.tcFlag := rfl
@[simp] theorem State.acknowledged_complete_htFlag (s : State) (p : Nat) :
    (s.acknowledged .transferComplete p).htFlag = s.htFlag := rfl
@[simp] theorem State.acknowledged_complete_tcFlag (s : State) (p : Nat) :
    (s.acknowledged .transferComplete p).tcFlag = false := rfl
@[simp] theorem BufId.other_other (b : BufId) : b.other.other = b := by cases b <;> rfl
theorem BufId.other_ne (b : BufId) : b.other ≠ b := by cases b <;> decide

/-- The two buffers of a state, named by the one number and the other. -/
theorem State.setBuf_buf (s : State) (b c : BufId) (m : Memory Color) :
    (s.setBuf b m).buf c = if b = c then m else s.buf c := by
  cases b <;> cases c <;> rfl

end Sys2Proof.Machine
end

