-- ==== Sys2Proof/Laws/Guards.lean ====
section
/-! SUPPORT. The guards every step passes, said once: what they let through, what they stop with, and what a next
state behind one says about the state before. -/

namespace Sys2Proof.Machine

variable {s t : State} {k : Host.Outcome State Fault Refusal}

theorem live_of_ok (hv : s.cfg.valid = true) (hf : s.fault = none) : live s k = k := by simp [live, hv, hf]

/-- A faulted state enables no step: the fault is answered again (R45, R255). -/
theorem live_of_fault {r : Fault} (hv : s.cfg.valid = true) (hf : s.fault = some r) : live s k = .fault r := by
  simp [live, hv, hf]

theorem live_of_bad (hv : s.cfg.valid = false) : live s k = .refused .badConfiguration := by simp [live, hv]

/-- Everything `live` can do before a next state. -/
theorem live_eq_next (h : live s k = .next t) : s.cfg.valid = true ∧ s.fault = none ∧ k = .next t := by
  unfold live at h
  split at h
  · split at h <;> simp_all
  · cases h

theorem command_of_ok (hv : s.cfg.valid = true) (hf : s.fault = none) (hi : s.issuer = .thread) : command s k = k := by
  simp [command, live, hv, hf, hi]

theorem command_eq_next (h : command s k = .next t) :
    s.cfg.valid = true ∧ s.fault = none ∧ s.issuer = .thread ∧ k = .next t := by
  obtain ⟨hv, hf, h⟩ := live_eq_next h
  split at h <;> simp_all

theorem readyCommand_of_ok (hv : s.cfg.valid = true) (hf : s.fault = none) (hi : s.issuer = .thread)
    (hr : s.initialised = true) : readyCommand s k = k := by
  simp [readyCommand, command, live, hv, hf, hi, hr]

theorem readyCommand_eq_next (h : readyCommand s k = .next t) :
    s.cfg.valid = true ∧ s.fault = none ∧ s.issuer = .thread ∧ s.initialised = true ∧ k = .next t := by
  obtain ⟨hv, hf, hi, h⟩ := command_eq_next h
  split at h <;> simp_all

theorem whenEnabled_of_enabled {e : Bool} (hv : s.cfg.valid = true) (hf : s.fault = none) (he : e = true) :
    whenEnabled e s k = k := by simp [whenEnabled, live, hv, hf, he]

/-- A step that is not enabled changes nothing. -/
theorem whenEnabled_of_disabled {e : Bool} (hv : s.cfg.valid = true) (hf : s.fault = none) (he : e = false) :
    whenEnabled e s k = .next s := by simp [whenEnabled, live, hv, hf, he]

/-- Everything a step with an enabling condition can do before a next state. -/
theorem whenEnabled_eq_next {e : Bool} (h : whenEnabled e s k = .next t) :
    s.cfg.valid = true ∧ s.fault = none ∧ (e = true ∧ k = .next t ∨ e = false ∧ t = s) := by
  obtain ⟨hv, hf, h⟩ := live_eq_next h
  refine ⟨hv, hf, ?_⟩
  split at h
  · exact .inl ⟨‹_›, h⟩
  · rename_i he; cases h; exact .inr ⟨by simpa using he, rfl⟩

theorem issuedBy_eq_true {c : Context} : issuedBy s c = true ↔ s.issuer = c := by simp [issuedBy]

/-- When a service is enabled (R199, R271). -/
theorem serviceEnabled_eq_true {src : IrqSource} :
    serviceEnabled s src = true ↔ pendingFlag s src = true ∧ s.issuer = .interrupt := by
  simp [serviceEnabled, issuedBy_eq_true]

/-- When a service is not enabled: its flag is clear, or thread context names it (R271). -/
theorem serviceEnabled_eq_false {src : IrqSource} :
    serviceEnabled s src = false ↔ pendingFlag s src = false ∨ s.issuer = .thread := by
  cases hi : s.issuer <;> simp [serviceEnabled, issuedBy, hi]

/-- Everything being inside `refresh` says (R195, R271). -/
theorem insideRefresh_eq_true : insideRefresh s = true ↔
    s.issuer = .thread ∧ s.initialised = true ∧ s.busy = false ∧ s.pos = .val 0 := by
  simp [insideRefresh, issuedBy_eq_true, and_assoc]

/-- Everything being inside a service says (R200, R201, R271). -/
theorem insideService_eq_true : insideService s = true ↔ s.issuer = .interrupt ∧ s.busy = true ∧
    ∃ p w, s.pos = .val p ∧ s.wrPos = .val w ∧ w ≠ p % s.cfg.scratchLen := by
  unfold insideService
  cases s.pos <;> cases s.wrPos <;> simp [issuedBy_eq_true, and_assoc]

/-- When `arm` is enabled (R195, R196). -/
theorem armEnabled_eq_true : armEnabled s = true ↔ insideRefresh s = true ∧
    ∃ n, s.nCur = .val n ∧ s.ledOff = .val (min n 2) ∧ s.wrPos = .val 0 := by
  unfold armEnabled prefilled
  rw [Bool.and_eq_true]
  refine and_congr_right fun h => ?_
  have hp := (insideRefresh_eq_true.1 h).2.2.2
  cases s.ledOff <;> cases s.nCur <;> simp [hp]

/-- When `disarm` is enabled (R201, R202). -/
theorem disarmEnabled_eq_true : disarmEnabled s = true ↔ insideService s = true ∧
    ∃ p total, s.pos = .val p ∧ s.total = .val total ∧ total ≤ p := by
  unfold disarmEnabled
  rw [Bool.and_eq_true]
  refine and_congr_right fun _ => ?_
  cases s.pos <;> cases s.total <;> simp

@[simp] theorem settle_ok (t : State) : settle (.ok t) = .next t := rfl
@[simp] theorem settle_error (r : Fault) : settle (.error r) = .fault r := rfl

theorem settle_eq_next {e : Except Fault State} : settle e = .next t ↔ e = .ok t := by
  cases e <;> simp [settle]

theorem settle_eq_fault {e : Except Fault State} {r : Fault} : settle e = .fault r ↔ e = .error r := by
  cases e <;> simp [settle]

theorem settle_ne_refused {e : Except Fault State} {r : Refusal} : settle e ≠ .refused r := by
  cases e <;> simp [settle]

/-- A chain of steps answers only when each of its parts does. -/
theorem bind_eq_ok {α β : Type} {x : Except Fault α} {f : α → Except Fault β} {b : β} :
    (x >>= f) = .ok b ↔ ∃ a, x = .ok a ∧ f a = .ok b := by
  cases x <;> simp [bind, Except.bind]

/-- A chain of steps faults when its first part does, or the rest does. -/
theorem bind_eq_error {α β : Type} {x : Except Fault α} {f : α → Except Fault β} {r : Fault} :
    (x >>= f) = .error r ↔ x = .error r ∨ ∃ a, x = .ok a ∧ f a = .error r := by
  cases x <;> simp [bind, Except.bind]

@[simp] theorem ok_bind {α β : Type} (a : α) (f : α → Except Fault β) : ((.ok a : Except Fault α) >>= f) = f a := rfl
@[simp] theorem error_bind {α β : Type} (r : Fault) (f : α → Except Fault β) :
    ((.error r : Except Fault α) >>= f) = .error r := rfl

/-- A chain whose last part only answers is its first part. -/
@[simp] theorem bind_ok_right {α : Type} (x : Except Fault α) : (x >>= fun a => .ok a) = x := by cases x <;> rfl

@[simp] theorem Elem.read_val {α : Type} (v : α) : (Elem.val v).read = .ok v := rfl
@[simp] theorem Elem.read_unspecified {α : Type} : (Elem.unspecified : Elem α).read = .error .readUnspecified := rfl

theorem Elem.read_eq_ok {α : Type} {e : Elem α} {v : α} : e.read = .ok v ↔ e = .val v := by
  cases e <;> simp [Elem.read]

end Sys2Proof.Machine
end

