-- ==== Sys2Proof/Laws/Encoder.lean ====
section
/-! SUPPORT. The sizes of a build (R6) and of what the Bit Encoder gives (R96), and the one equation of a pure row. -/

namespace Sys2Proof.Machine

theorem bpl_pos (c : Config) : 0 < c.bpl := by unfold Config.bpl Config.nch; split <;> decide

theorem scratchLen_eq (c : Config) : c.scratchLen = 2 * c.bpl := rfl

theorem scratchLen_pos (c : Config) : 0 < c.scratchLen := by have := bpl_pos c; simp [scratchLen_eq]; omega

theorem bpl_lt_scratchLen (c : Config) : c.bpl < c.scratchLen := by have := bpl_pos c; simp [scratchLen_eq]; omega

/-- The build constraints of R11, one by one. -/
theorem Config.valid_iff (c : Config) : c.valid = true ↔
    c.params.positive = true ∧ 1 ≤ c.table.t0h ∧ c.table.t0h < c.table.t1h ∧ c.table.t1h ≤ c.table.periodTicks ∧
      c.table.periodTicks < 2 ^ c.params.w ∧ 1 ≤ c.table.pauseMinSlots ∧ 1 ≤ c.params.maxLeds ∧
      c.params.maxLeds < 2 ^ c.params.idxW := by
  simp [Config.valid, and_assoc]

@[simp] theorem length_channels (c : Config) (color : Color) : (channels c color).length = c.nch := by
  unfold channels Config.nch
  cases c.params.order <;> cases c.params.hasWhite <;> rfl

@[simp] theorem length_channelBits (v : Byte) : (channelBits v).length = 8 := rfl

@[simp] theorem length_serialBits (chs : List Byte) : (serialBits chs).length = 8 * chs.length := by
  induction chs with
  | nil => rfl
  | cons v vs ih => simp only [serialBits, List.flatMap_cons, List.length_append, length_channelBits, List.length_cons] at ih ⊢; omega

@[simp] theorem length_compareRun (c : Config) (bits : List Bool) : (compareRun c bits).length = bits.length := by
  simp [compareRun]

/-- An LED's compare run has `BPL` values (R96). -/
@[simp] theorem length_encodeColor (c : Config) (color : Color) : (encodeColor c color).length = c.bpl := by
  simp [encodeColor, Config.bpl]

/-- A pure row changes nothing but the sequence it answers (R177). -/
theorem answer_of_ok {s : State} {run : List CompareWord} (hv : s.cfg.valid = true) (hf : s.fault = none) :
    answer run s = .next { s with ret := run } := live_of_ok hv hf

end Sys2Proof.Machine
end

