-- ==== Sys2Proof/Laws/Memory.lean ====
section
/-! SUPPORT. The laws of the memories: a read after a write, a write leaves every other element alone, every
operation keeps the canonical form and the index range, and canonical memories with the same reads are equal. -/

namespace Sys2Proof.Machine

variable {α : Type}

@[simp] theorem Memory.read_nil (i : Nat) : Memory.read ([] : Memory α) i = none := rfl

theorem Memory.read_cons (k : Nat) (v : α) (m : Memory α) (i : Nat) :
    Memory.read ((k, v) :: m) i = if k = i then some v else Memory.read m i := rfl

/-- What every element reads as after a write. -/
theorem Memory.read_write (m : Memory α) (i : Nat) (v : α) (j : Nat) :
    (m.write i v).read j = if i = j then some v else m.read j := by
  induction m with
  | nil => simp [Memory.write, Memory.read]
  | cons e m ih =>
    obtain ⟨k, u⟩ := e
    unfold Memory.write
    split
    · simp [Memory.read]
    · split
      · subst_vars; by_cases h : k = j <;> simp [Memory.read, h]
      · by_cases h : k = j
        · subst h; simp [Memory.read]; intro h'; omega
        · simp [Memory.read, h, ih]

@[simp] theorem Memory.read_write_same (m : Memory α) (i : Nat) (v : α) : (m.write i v).read i = some v := by
  simp [Memory.read_write]

theorem Memory.read_write_other (m : Memory α) {i j : Nat} (v : α) (h : i ≠ j) : (m.write i v).read j = m.read j := by
  simp [Memory.read_write, h]

/-- What every element reads as after a run of writes. -/
theorem Memory.read_writeRun (vs : List α) : ∀ (m : Memory α) (base j : Nat),
    (m.writeRun base vs).read j = if base ≤ j ∧ j < base + vs.length then vs[j - base]? else m.read j := by
  induction vs with
  | nil => intro m base j; simp [Memory.writeRun]
  | cons v vs ih =>
    intro m base j
    rw [Memory.writeRun, ih, Memory.read_write]
    by_cases h0 : base = j
    · subst h0; simp
    · by_cases h1 : base + 1 ≤ j ∧ j < base + 1 + vs.length
      · have e : j - base = (j - (base + 1)) + 1 := by omega
        rw [if_pos h1, if_pos (by simp; omega), e, List.getElem?_cons_succ]
      · rw [if_neg h1, if_neg h0, if_neg (by simp; omega)]

theorem Memory.risesFrom_mono {low low' : Nat} (h : low' ≤ low) : ∀ {m : Memory α},
    Memory.risesFrom low m = true → Memory.risesFrom low' m = true := by
  intro m; cases m with
  | nil => simp [Memory.risesFrom]
  | cons e m => simp only [Memory.risesFrom, Bool.and_eq_true, decide_eq_true_eq]; intro ⟨a, b⟩; exact ⟨by omega, b⟩

theorem Memory.risesFrom_write (i : Nat) (v : α) : ∀ (m : Memory α) (low : Nat), low ≤ i →
    Memory.risesFrom low m = true → Memory.risesFrom low (m.write i v) = true := by
  intro m
  induction m with
  | nil => intro low h _; simp [Memory.write, Memory.risesFrom, h]
  | cons e m ih =>
    obtain ⟨k, u⟩ := e
    intro low h hm
    simp only [Memory.risesFrom, Bool.and_eq_true, decide_eq_true_eq] at hm
    unfold Memory.write
    split
    · simp only [Memory.risesFrom, Bool.and_eq_true, decide_eq_true_eq]; exact ⟨h, by omega, hm.2⟩
    · split
      · subst_vars; simp only [Memory.risesFrom, Bool.and_eq_true, decide_eq_true_eq]; exact hm
      · simp only [Memory.risesFrom, Bool.and_eq_true, decide_eq_true_eq]
        exact ⟨hm.1, ih (k + 1) (by omega) hm.2⟩

/-- A write keeps the canonical form. -/
theorem Memory.wf_write {m : Memory α} (h : m.wf = true) (i : Nat) (v : α) : (m.write i v).wf = true :=
  Memory.risesFrom_write i v m 0 (Nat.zero_le i) h

/-- A run of writes keeps the canonical form. -/
theorem Memory.wf_writeRun (vs : List α) : ∀ {m : Memory α} (_ : m.wf = true) (base : Nat),
    (m.writeRun base vs).wf = true := by
  induction vs with
  | nil => intro m h base; exact h
  | cons v vs ih => intro m h base; exact ih (Memory.wf_write h base v) (base + 1)

theorem Memory.within_write {size : Nat} {m : Memory α} (h : m.within size = true) {i : Nat} (hi : i < size) (v : α) :
    (m.write i v).within size = true := by
  induction m with
  | nil => simp [Memory.write, Memory.within, hi]
  | cons e m ih =>
    obtain ⟨k, u⟩ := e
    simp only [Memory.within, List.all_cons, Bool.and_eq_true, decide_eq_true_eq] at h
    unfold Memory.write
    split
    · simp only [Memory.within, List.all_cons, Bool.and_eq_true, decide_eq_true_eq]; exact ⟨hi, h.1, h.2⟩
    · split
      · simp only [Memory.within, List.all_cons, Bool.and_eq_true, decide_eq_true_eq]; exact ⟨by omega, h.2⟩
      · simp only [Memory.within, List.all_cons, Bool.and_eq_true, decide_eq_true_eq]; exact ⟨h.1, ih h.2⟩

theorem Memory.within_writeRun {size : Nat} (vs : List α) : ∀ {m : Memory α} (_ : m.within size = true) {base : Nat}
    (_ : base + vs.length ≤ size), (m.writeRun base vs).within size = true := by
  induction vs with
  | nil => intro m h base _; exact h
  | cons v vs ih =>
    intro m h base hb
    simp only [List.length_cons] at hb
    exact ih (Memory.within_write h (by omega) v) (by omega)

theorem Memory.read_eq_none_of_lt {m : Memory α} : ∀ {low : Nat}, Memory.risesFrom low m = true → ∀ {i : Nat}, i < low →
    m.read i = none := by
  induction m with
  | nil => intros; rfl
  | cons e m ih =>
    obtain ⟨k, u⟩ := e
    intro low h i hi
    simp only [Memory.risesFrom, Bool.and_eq_true, decide_eq_true_eq] at h
    rw [Memory.read_cons, if_neg (by omega)]
    exact ih h.2 (by omega)

/-- Equal memories are equal data: canonical memories with the same reads are the same list. -/
theorem Memory.eq_of_read_eq : ∀ {m m' : Memory α} {low : Nat}, Memory.risesFrom low m = true →
    Memory.risesFrom low m' = true → (∀ i, m.read i = m'.read i) → m = m'
  | [], [], _, _, _, _ => rfl
  | [], (k, u) :: m', _, _, _, h => by have := h k; simp [Memory.read] at this
  | (k, u) :: m, [], _, _, _, h => by have := h k; simp [Memory.read] at this
  | (k, u) :: m, (k', u') :: m', low, hm, hm', h => by
    simp only [Memory.risesFrom, Bool.and_eq_true, decide_eq_true_eq] at hm hm'
    have hk : k = k' := by
      rcases Nat.lt_trichotomy k k' with hlt | rfl | hlt
      · have := h k
        rw [Memory.read_cons, if_pos rfl, Memory.read_cons, if_neg (by omega),
          Memory.read_eq_none_of_lt hm'.2 (by omega)] at this
        cases this
      · rfl
      · have := h k'
        rw [Memory.read_cons, if_neg (by omega), Memory.read_eq_none_of_lt hm.2 (by omega), Memory.read_cons,
          if_pos rfl] at this
        cases this
    subst hk
    have hu : u = u' := by have := h k; simpa [Memory.read] using this
    subst hu
    have ht : m = m' := by
      refine Memory.eq_of_read_eq hm.2 hm'.2 fun i => ?_
      by_cases hi : i < k + 1
      · rw [Memory.read_eq_none_of_lt hm.2 hi, Memory.read_eq_none_of_lt hm'.2 hi]
      · have := h i
        rwa [Memory.read_cons, if_neg (by omega), Memory.read_cons, if_neg (by omega)] at this
    rw [ht]

/-- What reading a whole memory says: every element holds its value. -/
theorem Memory.readUpTo_eq_some (m : Memory α) : ∀ (n : Nat) (vs : List α),
    m.readUpTo n = some vs ↔ vs.length = n ∧ ∀ i, i < n → m.read i = vs[i]? := by
  intro n
  induction n with
  | zero => intro vs; cases vs <;> simp [Memory.readUpTo]
  | succ n ih =>
    intro vs
    constructor
    · intro h
      unfold Memory.readUpTo at h
      split at h
      · rename_i ws v hws hv
        obtain ⟨hl, hr⟩ := (ih ws).1 hws
        cases h
        refine ⟨by simp [hl], fun i hi => ?_⟩
        by_cases hin : i < n
        · rw [hr i hin, List.getElem?_append_left (by omega)]
        · have : i = n := by omega
          subst this
          rw [hv, List.getElem?_append_right (by omega), hl]; simp
      · cases h
    · rintro ⟨hl, hr⟩
      have hne : vs ≠ [] := by rintro rfl; simp at hl
      have hd : m.readUpTo n = some vs.dropLast := by
        refine (ih _).2 ⟨by simp [hl], fun i hi => ?_⟩
        rw [hr i (by omega), List.getElem?_dropLast, if_pos (by omega)]
      have hlast : m.read n = some (vs.getLast hne) := by
        rw [hr n (by omega), List.getLast_eq_getElem]
        have : n = vs.length - 1 := by omega
        rw [this]; exact List.getElem?_eq_getElem (by omega)
      unfold Memory.readUpTo
      rw [hd, hlast]
      simp [List.dropLast_append_getLast]

/-- A memory all of whose elements hold a value can be read whole. -/
theorem Memory.readUpTo_of_full (m : Memory α) : ∀ (n : Nat), (∀ i, i < n → (m.read i).isSome = true) →
    ∃ vs, m.readUpTo n = some vs := by
  intro n
  induction n with
  | zero => intro _; exact ⟨[], rfl⟩
  | succ n ih =>
    intro h
    obtain ⟨vs, hvs⟩ := ih fun i hi => h i (by omega)
    obtain ⟨v, hv⟩ := Option.isSome_iff_exists.1 (h n (by omega))
    exact ⟨vs ++ [v], by unfold Memory.readUpTo; rw [hvs, hv]⟩

/-- `MemRead` answers only with the element's value, of an element inside the space. -/
theorem memRead_eq_ok {size : Nat} {m : Memory α} {i : Nat} {v : α} :
    memRead size m i = .ok v ↔ i < size ∧ m.read i = some v := by
  unfold memRead
  split
  · split <;> simp_all
  · simp_all

/-- A run of `MemWrite` answers only with the run written, all of it inside the space. -/
theorem memWriteRun_eq_ok {size : Nat} {m m' : Memory α} {base : Nat} {vs : List α} :
    memWriteRun size m base vs = .ok m' ↔ base + vs.length ≤ size ∧ m' = m.writeRun base vs := by
  unfold memWriteRun
  split <;> simp_all [eq_comm]

/-- Reading a whole space answers only with the values of all its elements. -/
theorem memReadAll_eq_ok {size : Nat} {m : Memory α} {vs : List α} :
    memReadAll size m = .ok vs ↔ vs.length = size ∧ ∀ i, i < size → m.read i = vs[i]? := by
  unfold memReadAll
  rw [← Memory.readUpTo_eq_some]
  split <;> simp_all

end Sys2Proof.Machine
end

