-- ==== Sys2Proof/Laws/Streaming.lean ====
section
/-! SUPPORT. What each shared operation of the streaming engine can do, said once: `fill_half`, the beat, the interrupt
flags, the two services. Later proofs cite these instead of unfolding the operations. -/

namespace Sys2Proof.Machine

variable {s t : State}

/-- `fill_half` with an LED to send answers the state R193 gives. -/
theorem fillHalf_of_led {led n w : Nat} {a : BufId} {color : Color} (hl : s.ledOff = .val led) (hn : s.nCur = .val n)
    (hw : s.wrPos = .val w) (hlt : led < n) (ha : s.active = .val a) (hm : led < s.maxLeds)
    (hc : (s.buf a).read led = some color) (hr : w + s.cfg.bpl ≤ s.cfg.scratchLen) :
    fillHalf s = .ok { s with scratch := s.scratch.writeRun w (encodeColor s.cfg color), ledOff := .val (led + 1),
                              wrPos := .val (toggledWrPos s.cfg w) } := by
  simp [fillHalf, fillWithLed, hl, hn, hw, hlt, ha, memRead_eq_ok.2 ⟨hm, hc⟩,
    memWriteRun_eq_ok.2 ⟨(by simpa using hr : w + (encodeColor s.cfg color).length ≤ _), rfl⟩]

/-- `fill_half` with the LEDs exhausted answers the state R193 gives. -/
theorem fillHalf_of_exhausted {led n w : Nat} (hl : s.ledOff = .val led) (hn : s.nCur = .val n) (hw : s.wrPos = .val w)
    (hge : n ≤ led) (hr : w + s.cfg.bpl ≤ s.cfg.scratchLen) :
    fillHalf s = .ok { s with scratch := s.scratch.writeRun w (List.replicate s.cfg.bpl 0), fsm := drained s.fsm,
                              wrPos := .val (toggledWrPos s.cfg w) } := by
  simp [fillHalf, fillWithZeros, hl, hn, hw, Nat.not_lt.2 hge,
    memWriteRun_eq_ok.2 ⟨(by simpa using hr : w + (List.replicate s.cfg.bpl 0).length ≤ _), rfl⟩]

/-- Everything `fill_half` can do before a next state. -/
theorem fillHalf_cases (h : fillHalf s = .ok t) :
    ∃ led n w, s.ledOff = .val led ∧ s.nCur = .val n ∧ s.wrPos = .val w ∧ w + s.cfg.bpl ≤ s.cfg.scratchLen ∧
      ((led < n ∧ led < s.maxLeds ∧ ∃ a color, s.active = .val a ∧ (s.buf a).read led = some color ∧
          t = { s with scratch := s.scratch.writeRun w (encodeColor s.cfg color), ledOff := .val (led + 1),
                       wrPos := .val (toggledWrPos s.cfg w) }) ∨
       (n ≤ led ∧ t = { s with scratch := s.scratch.writeRun w (List.replicate s.cfg.bpl 0), fsm := drained s.fsm,
                               wrPos := .val (toggledWrPos s.cfg w) })) := by
  obtain ⟨led, hl, h⟩ := bind_eq_ok.1 h
  obtain ⟨n, hn, h⟩ := bind_eq_ok.1 h
  obtain ⟨w, hw, h⟩ := bind_eq_ok.1 h
  refine ⟨led, n, w, Elem.read_eq_ok.1 hl, Elem.read_eq_ok.1 hn, Elem.read_eq_ok.1 hw, ?_⟩
  split at h
  · obtain ⟨a, ha, h⟩ := bind_eq_ok.1 h
    obtain ⟨color, hc, h⟩ := bind_eq_ok.1 h
    obtain ⟨m, hm, h⟩ := bind_eq_ok.1 h
    obtain ⟨hlm, hc⟩ := memRead_eq_ok.1 hc
    obtain ⟨hr, rfl⟩ := memWriteRun_eq_ok.1 hm
    cases h
    exact ⟨by simpa using hr, .inl ⟨‹_›, hlm, a, color, Elem.read_eq_ok.1 ha, hc, rfl⟩⟩
  · obtain ⟨m, hm, h⟩ := bind_eq_ok.1 h
    obtain ⟨hr, rfl⟩ := memWriteRun_eq_ok.1 hm
    cases h
    exact ⟨by simpa using hr, .inr ⟨by omega, rfl⟩⟩

/-- `fill_half` changes only the scratch buffer, the LED offset, the write position and the state machine (R193). -/
theorem fillHalf_frame (h : fillHalf s = .ok t) :
    t = { s with scratch := t.scratch, ledOff := t.ledOff, wrPos := t.wrPos, fsm := t.fsm } := by
  obtain ⟨led, n, w, -, -, -, -, ⟨-, -, a, color, -, -, rfl⟩ | ⟨-, rfl⟩⟩ := fillHalf_cases h <;> rfl

/-- `fill_half` keeps the scratch buffer canonical and inside its space (R62). -/
theorem fillHalf_keeps_scratch (h : fillHalf s = .ok t) (hw : s.scratch.wf = true)
    (hr : s.scratch.within s.cfg.scratchLen = true) : t.scratch.wf = true ∧ t.scratch.within s.cfg.scratchLen = true := by
  obtain ⟨led, n, w, -, -, -, hin, ⟨-, -, a, color, -, -, rfl⟩ | ⟨-, rfl⟩⟩ := fillHalf_cases h
  · exact ⟨Memory.wf_writeRun _ hw _, Memory.within_writeRun _ hr (by simpa using hin)⟩
  · exact ⟨Memory.wf_writeRun _ hw _, Memory.within_writeRun _ hr (by simpa using hin)⟩

/-- What raising an interrupt flag can do (R197). -/
theorem raiseFlag_eq_ok {src : IrqSource} : raiseFlag src s = .ok t ↔ s.htFlag = false ∧ s.tcFlag = false ∧
    t = (match src with
      | .halfTransfer => { s with htFlag := true }
      | .transferComplete => { s with tcFlag := true }) := by
  unfold raiseFlag State.pending
  split
  · simp_all; intro h; simp_all
  · simp_all
    cases src <;> simp [eq_comm]

/-- What the flags of a beat can do (R198). -/
theorem raiseFlags_eq_ok {idx : Nat} : raiseFlags idx s = .ok t ↔
    (idx = s.cfg.bpl ∧ s.htFlag = false ∧ s.tcFlag = false ∧ t = { s with htFlag := true }) ∨
    (idx ≠ s.cfg.bpl ∧ idx = 0 ∧ s.htFlag = false ∧ s.tcFlag = false ∧ t = { s with tcFlag := true }) ∨
    (idx ≠ s.cfg.bpl ∧ idx ≠ 0 ∧ t = s) := by
  unfold raiseFlags
  split
  · rw [raiseFlag_eq_ok]; simp_all
  · split
    · rw [raiseFlag_eq_ok]; simp_all
    · rename_i h1 h2
      constructor
      · intro h; cases h; exact .inr (.inr ⟨h1, h2, rfl⟩)
      · rintro (⟨h, -⟩ | ⟨-, h, -⟩ | ⟨-, -, rfl⟩)
        · exact absurd h h1
        · exact absurd h h2
        · rfl

/-- Everything a beat can do before a next state (R80, R197). -/
theorem beat_eq_ok : beat s = .ok t ↔ ∃ idx v, s.dmaIdx = .val idx ∧ idx < s.cfg.scratchLen ∧
    s.scratch.read idx = some v ∧
    raiseFlags ((idx + 1) % s.cfg.scratchLen) (s.loaded v ((idx + 1) % s.cfg.scratchLen)) = .ok t := by
  simp only [beat, bind_eq_ok, Elem.read_eq_ok, memRead_eq_ok]
  exact ⟨fun ⟨i, hi, v, ⟨a, b⟩, c⟩ => ⟨i, v, hi, a, b, c⟩, fun ⟨i, v, hi, a, b, c⟩ => ⟨i, hi, v, ⟨a, b⟩, c⟩⟩

/-- A beat changes only the compare register, the trace, the read index, the state machine and the flags (R197). -/
theorem beat_frame (h : beat s = .ok t) :
    t = { s with ccr := t.ccr, wire := t.wire, dmaIdx := t.dmaIdx, fsm := t.fsm, htFlag := t.htFlag, tcFlag := t.tcFlag } := by
  obtain ⟨idx, v, -, -, -, h⟩ := beat_eq_ok.1 h
  rcases raiseFlags_eq_ok.1 h with ⟨-, -, -, rfl⟩ | ⟨-, -, -, -, rfl⟩ | ⟨-, -, rfl⟩ <;> rfl

theorem acknowledge_eq_ok {src : IrqSource} : acknowledge src s = .ok t ↔
    ∃ p, s.pos = .val p ∧ t = s.acknowledged src p := by
  simp only [acknowledge, bind_eq_ok, Elem.read_eq_ok]
  exact ⟨fun ⟨p, hp, h⟩ => by cases h; exact ⟨p, hp, rfl⟩, fun ⟨p, hp, h⟩ => ⟨p, hp, by rw [h]⟩⟩

/-- Everything `on_half_transfer`'s body can do before a next state (R200). -/
theorem serveHalfTransfer_eq_ok : serveHalfTransfer s = .ok t ↔
    ∃ p, s.pos = .val p ∧ fillHalf (s.acknowledged .halfTransfer p) = .ok t := by
  simp only [serveHalfTransfer, bind_eq_ok, acknowledge_eq_ok, State.leaveService]
  constructor
  · rintro ⟨s1, ⟨p, hp, rfl⟩, s2, h2, h⟩; cases h; exact ⟨p, hp, h2⟩
  · rintro ⟨p, hp, h⟩; exact ⟨_, ⟨p, hp, rfl⟩, t, h, rfl⟩

/-- What `on_complete` does once `pos` is advanced: refill, or disarm at the end of the frame (R201). -/
theorem refillOrDisarm_eq_ok : refillOrDisarm s = .ok t ↔ ∃ p total, s.pos = .val p ∧ s.total = .val total ∧
    ((p < total ∧ fillHalf s = .ok t) ∨ (total ≤ p ∧ t = s.disarmed)) := by
  simp only [refillOrDisarm, bind_eq_ok, Elem.read_eq_ok]
  constructor
  · rintro ⟨p, hp, total, ht, h⟩
    refine ⟨p, total, hp, ht, ?_⟩
    split at h
    · exact .inl ⟨‹_›, h⟩
    · cases h; exact .inr ⟨by omega, rfl⟩
  · rintro ⟨p, total, hp, ht, ⟨hlt, h⟩ | ⟨hge, rfl⟩⟩
    · exact ⟨p, hp, total, ht, by rwa [if_pos hlt]⟩
    · exact ⟨p, hp, total, ht, by rw [if_neg (by omega)]⟩

/-- Everything `on_complete`'s body can do before a next state (R201). -/
theorem serveComplete_eq_ok : serveComplete s = .ok t ↔
    ∃ p total, s.pos = .val p ∧ s.total = .val total ∧
      ((p + s.cfg.bpl < total ∧ fillHalf (s.acknowledged .transferComplete p) = .ok t) ∨
       (total ≤ p + s.cfg.bpl ∧ t = (s.acknowledged .transferComplete p).disarmed)) := by
  simp only [serveComplete, bind_eq_ok, acknowledge_eq_ok, State.leaveService, refillOrDisarm_eq_ok]
  constructor
  · rintro ⟨s1, ⟨p, hp, rfl⟩, s2, ⟨p', total, hp', ht, h2⟩, h⟩
    cases hp'; cases h
    exact ⟨p, total, hp, ht, h2⟩
  · rintro ⟨p, total, hp, ht, h⟩
    exact ⟨_, ⟨p, hp, rfl⟩, t, ⟨p + s.cfg.bpl, total, rfl, ht, h⟩, rfl⟩

end Sys2Proof.Machine
end

