-- ==== Sys2Proof/Laws/Facade.lean ====
section
/-! SUPPORT. What each shared operation of the façade and the buffer pair can do, said once: writing the writable
buffer, the swap with its copy forward, `prefill`, `refresh`. -/

namespace Sys2Proof.Machine

variable {s t : State}

/-- Everything writing the writable buffer can do before a next state (R163). -/
theorem writeWritable_eq_ok {base : Nat} {colors : List Color} : writeWritable base colors s = .ok t ↔
    ∃ a, s.active = .val a ∧ base + colors.length ≤ s.maxLeds ∧
      t = s.setBuf a.other ((s.buf a.other).writeRun base colors) := by
  simp only [writeWritable, bind_eq_ok, Elem.read_eq_ok, memWriteRun_eq_ok]
  constructor
  · rintro ⟨a, ha, m, ⟨hb, rfl⟩, h⟩; cases h; exact ⟨a, ha, hb, rfl⟩
  · rintro ⟨a, ha, hb, rfl⟩; exact ⟨a, ha, _, ⟨hb, rfl⟩, rfl⟩

/-- Everything the copy forward can do before a next state (R74): the hardware-owned buffer is written whole over the
writable one. -/
theorem copyForward_eq_ok : copyForward s = .ok t ↔
    ∃ a colors, s.active = .val a ∧ colors.length = s.maxLeds ∧ (∀ i, i < s.maxLeds → (s.buf a).read i = colors[i]?) ∧
      t = s.setBuf a.other ((s.buf a.other).writeRun 0 colors) := by
  simp only [copyForward, bind_eq_ok, Elem.read_eq_ok, memReadAll_eq_ok, writeWritable_eq_ok]
  constructor
  · rintro ⟨a, ha, colors, ⟨hl, hr⟩, a', ha', -, rfl⟩
    rw [ha] at ha'; cases ha'
    exact ⟨a, colors, ha, hl, hr, rfl⟩
  · rintro ⟨a, colors, ha, hl, hr, rfl⟩
    exact ⟨a, ha, colors, ⟨hl, hr⟩, a, ha, by omega, rfl⟩

/-- Everything `prefill` can do before a next state (R195). -/
theorem prefill_eq_ok {n : Nat} : prefill n s = .ok t ↔
    ∃ s1, fillHalf (s.startCursor n) = .ok s1 ∧ fillHalf s1 = .ok t := by simp [prefill, bind_eq_ok]

/-- Everything `refresh` can do, when it is taken, before a next state (R233). -/
theorem refreshNow_eq_ok {nLeds : Nat} : refreshNow nLeds s = .ok t ↔
    ∃ a s2 s3, s.active = .val a ∧ copyForward { s with active := .val a.other } = .ok s2 ∧
      prefill (min nLeds s.maxLeds) s2 = .ok s3 ∧ t = s3.armed := by
  simp only [refreshNow, swapBuffers, bind_eq_ok, Elem.read_eq_ok, clampCount]
  constructor
  · rintro ⟨s1, ⟨a, ha, h1⟩, s2, h2, s3, h3, h⟩; cases h1; cases h; exact ⟨a, s2, s3, ha, h2, h3, rfl⟩
  · rintro ⟨a, s2, s3, ha, h2, h3, rfl⟩; exact ⟨_, ⟨a, ha, rfl⟩, s2, h2, s3, h3, rfl⟩

/-- `refresh` with `busy = 0` is taken, and APP waits no longer. -/
theorem refreshOrHold_of_idle {nLeds : Nat} (hb : s.busy = false) :
    refreshOrHold nLeds s = settle (refreshNow nLeds { s with held := none }) := by
  simp [refreshOrHold, refreshEnabled, hb]

/-- `refresh` with `busy = 1` holds: APP waits at it and nothing else changes (R232). -/
theorem refreshOrHold_of_busy {nLeds : Nat} (hb : s.busy = true) :
    refreshOrHold nLeds s = .next (s.waitingAt nLeds) := by simp [refreshOrHold, refreshEnabled, hb]

/-- The fill of `set_all_leds` (R161). -/
theorem fillAll_eq_ok {color : Color} {count : Nat} : fillAll color count s = .ok t ↔
    ∃ a, s.active = .val a ∧
      t = s.setBuf a.other ((s.buf a.other).writeRun 0 (List.replicate (min count s.maxLeds) color)) := by
  simp only [fillAll, writeWritable_eq_ok, clampCount, List.length_replicate]
  exact ⟨fun ⟨a, ha, _, h⟩ => ⟨a, ha, h⟩, fun ⟨a, ha, h⟩ => ⟨a, ha, by omega, h⟩⟩

end Sys2Proof.Machine
end

