-- ==== Sys2Proof/Laws/Schedule.lean ====
section
/-! SUPPORT. What a step is: the next request's operation, or the eager schedule's. -/

namespace Sys2Proof.Machine

variable {s : State}

theorem nextAction_of_request {r : Request} {rest : List Request} {i : Instr} (hs : s.script = r :: rest)
    (hd : requested s.cfg.params.order r.operation = .ok i) (hw : i.wf s.cfg.params = true)
    (hb : appBlocked s r.issuer i = false) : nextAction s = .run i { s with script := rest, issuer := r.issuer } := by
  simp [nextAction, hs, hd, hw, hb]

theorem nextAction_of_blocked {r : Request} {rest : List Request} {i : Instr} (hs : s.script = r :: rest)
    (hd : requested s.cfg.params.order r.operation = .ok i) (hw : i.wf s.cfg.params = true)
    (hb : appBlocked s r.issuer i = true) : nextAction s = eagerAction s := by
  simp [nextAction, hs, hd, hw, hb]

theorem nextAction_of_empty (hs : s.script = []) : nextAction s = eagerAction s := by simp [nextAction, hs]

/-- The operations the eager schedule runs, and in which state (R205). -/
theorem eagerAction_cases {i : Instr} {s' : State} (h : eagerAction s = .run i s') :
    (i = .onHalfTransfer ∧ s' = { s with issuer := .interrupt }) ∨
      (i = .onComplete ∧ s' = { s with issuer := .interrupt }) ∨ (i = .slot ∧ s' = s) ∨
      ∃ n, s.held = some n ∧ i = .refresh n ∧ s' = { s with issuer := .thread } := by
  unfold eagerAction at h
  split at h
  · cases h; exact .inl ⟨rfl, rfl⟩
  · split at h
    · cases h; exact .inr (.inl ⟨rfl, rfl⟩)
    · split at h
      · cases h; exact .inr (.inr (.inr ⟨_, ‹_›, rfl, rfl⟩))
      · split at h
        · cases h; exact .inr (.inr (.inl ⟨rfl, rfl⟩))
        · cases h

/-- Everything a step can do before a next state: run the operation of the next action, or rest. -/
theorem step_eq_next {t : State} (h : step s = .next t) :
    (∃ i s', nextAction s = .run i s' ∧ exec i s' = .next t) ∨
      (nextAction s = .rest ∧ s.cfg.valid = true ∧ s.fault = none ∧ t = s) := by
  unfold step at h
  split at h
  · exact .inl ⟨_, _, ‹_›, h⟩
  · obtain ⟨hv, hf, h⟩ := live_eq_next h; cases h; exact .inr ⟨‹_›, hv, hf, rfl⟩
  · obtain ⟨-, -, h⟩ := live_eq_next h; cases h

/-- Everything the next action can be, when it runs an operation. -/
theorem nextAction_cases {i : Instr} {s' : State} (h : nextAction s = .run i s') :
    (∃ r rest, s.script = r :: rest ∧ requested s.cfg.params.order r.operation = .ok i ∧ i.wf s.cfg.params = true ∧
        s' = { s with script := rest, issuer := r.issuer }) ∨ eagerAction s = .run i s' := by
  unfold nextAction at h
  split at h
  · exact .inr h
  · rename_i r rest hs
    split at h
    · cases h
    · split at h
      · split at h
        · exact .inr h
        · cases h; exact .inl ⟨r, rest, hs, ‹_›, ‹_›, rfl⟩
      · cases h

end Sys2Proof.Machine
end

