-- ==== Sys2Proof/Laws/Refill.lean ====
section
/-! SUPPORT. When `fill_half`, `prefill` and `refresh` complete, and in which state (R193, R195, R233): the other
direction of the lemmas that say what a next state of theirs can be. -/

namespace Sys2Proof.Machine

variable {s t : State}

/-- `fill_half` completes with the effect `Filled` wherever what it reads is there. -/
theorem fillHalf_of_canFill {a : BufId} {led n w : Nat} (h : CanFill s a led n w) :
    ∃ t, fillHalf s = .ok t ∧ Filled s t a led n w := by
  obtain ⟨ha, hl, hn, hw, hw2, hc⟩ := h
  have hb := bpl_pos s.cfg
  have hs := scratchLen_eq s.cfg
  have hr : w + s.cfg.bpl ≤ s.cfg.scratchLen := by rcases hw2 with rfl | rfl <;> omega
  have htog : toggledWrPos s.cfg w = if w = 0 then s.cfg.bpl else 0 := by
    unfold toggledWrPos
    rcases hw2 with rfl | rfl
    · simp; rw [hs]; exact Nat.mod_eq_of_lt (by omega)
    · rw [if_neg (by omega), hs, show s.cfg.bpl + s.cfg.bpl = 2 * s.cfg.bpl by omega, Nat.mod_self]
  by_cases hlt : led < n
  · obtain ⟨hm, hc⟩ := hc hlt
    obtain ⟨color, hc⟩ := Option.isSome_iff_exists.1 hc
    refine ⟨_, fillHalf_of_led hl hn hw hlt ha hm hc hr, ?_, fun i => ?_⟩
    · simp only [htog, if_pos hlt, if_neg (show ¬(n ≤ led ∧ s.fsm = .streaming) by omega)]
    · rw [Memory.read_writeRun]
      simp only [length_encodeColor]
      by_cases hi : w ≤ i ∧ i < w + s.cfg.bpl
      · rw [if_pos hi, if_pos hi, fillValue, if_pos hlt, ledRun, hc, List.getD_eq_getElem?_getD,
          List.getElem?_eq_getElem (by simp; omega)]
        rfl
      · rw [if_neg hi, if_neg hi]
  · refine ⟨_, fillHalf_of_exhausted hl hn hw (by omega) hr, ?_, fun i => ?_⟩
    · have : drained s.fsm = if n ≤ led ∧ s.fsm = .streaming then .draining else s.fsm := by
        cases hh : s.fsm <;> simp [drained]; omega
      simp only [htog, if_neg hlt, this, hl]
    · rw [Memory.read_writeRun]
      simp only [List.length_replicate]
      by_cases hi : w ≤ i ∧ i < w + s.cfg.bpl
      · rw [if_pos hi, if_pos hi, fillValue, if_neg hlt, List.getElem?_replicate, if_pos (by omega)]
      · rw [if_neg hi, if_neg hi]

/-- The `h`-th half of a frame is what `fill_half` writes for LED `h` (R98, R193). -/
theorem frameValue_of_half (s : State) (a : BufId) (n h : Nat) {j : Nat} (hj : j < s.cfg.bpl) :
    frameValue s.cfg (s.buf a) n (h * s.cfg.bpl + j) = fillValue s a h n j := by
  have hb := bpl_pos s.cfg
  have e1 : (h * s.cfg.bpl + j) / s.cfg.bpl = h := by
    rw [Nat.add_comm, Nat.add_mul_div_right _ _ hb, Nat.div_eq_of_lt hj]; omega
  have e2 : (h * s.cfg.bpl + j) % s.cfg.bpl = j := by
    rw [Nat.add_comm, Nat.add_mul_mod_self_right, Nat.mod_eq_of_lt hj]
  have e3 : h * s.cfg.bpl + j < n * s.cfg.bpl ↔ h < n := by
    constructor
    · intro hlt
      by_contra hc
      have := Nat.mul_le_mul_right s.cfg.bpl (Nat.le_of_not_lt hc)
      omega
    · intro hlt
      have := Nat.mul_le_mul_right s.cfg.bpl (Nat.succ_le_of_lt hlt)
      rw [Nat.succ_mul] at this
      omega
  unfold frameValue fillValue
  simp only [e1, e2, e3]

/-- `prefill(n)` completes from a full buffer: both halves hold the frame's first values and the cursor is past them
(R195). -/
theorem prefill_completes {n : Nat} {a : BufId} (ha : s.active = .val a) (hn : n ≤ s.maxLeds) (hf : BufferFull s a) :
    ∃ t, prefill n s = .ok t ∧
      (∀ i, t.scratch.read i =
        if i < s.cfg.scratchLen then some (frameValue s.cfg (s.buf a) n i) else s.scratch.read i) ∧
      t = { s with
        scratch := t.scratch, nCur := .val n, total := .val (s.cfg.frameLen n), pos := .val 0,
        ledOff := .val (min 2 n), wrPos := .val 0, fsm := t.fsm } := by
  have hb := bpl_pos s.cfg
  have hs := scratchLen_eq s.cfg
  obtain ⟨t1, h1, e1, r1⟩ := fillHalf_of_canFill (s := s.startCursor n) (a := a) (led := 0) (n := n) (w := 0)
    ⟨ha, rfl, rfl, rfl, .inl rfl, fun h => ⟨by show 0 < s.maxLeds; omega, hf 0 (by omega)⟩⟩
  obtain ⟨l1, hl1⟩ : ∃ l, l = (if 0 < n then 1 else 0) := ⟨_, rfl⟩
  have hl1' : l1 = min 1 n := by rw [hl1]; split <;> omega
  obtain ⟨t2, h2, e2, r2⟩ := fillHalf_of_canFill (s := t1) (a := a) (led := l1) (n := n) (w := s.cfg.bpl)
    ⟨by rw [e1]; exact ha, by rw [e1, hl1], by rw [e1]; rfl, by rw [e1]; rfl, .inr (by rw [e1]; rfl), fun h => by
      have : l1 = 1 := by omega
      rw [e1, this]
      exact ⟨by show 1 < s.maxLeds; omega, hf 1 (by omega)⟩⟩
  refine ⟨t2, prefill_eq_ok.2 ⟨t1, h1, h2⟩, fun i => ?_, ?_⟩
  · have c1 : t1.cfg = s.cfg := by rw [e1]; rfl
    have c2 : t1.buf a = s.buf a := by rw [e1]; cases a <;> rfl
    rw [r2, r1, c1]
    show (if _ then _ else if 0 ≤ i ∧ i < 0 + s.cfg.bpl then _ else s.scratch.read i) = _
    by_cases hi : s.cfg.bpl ≤ i ∧ i < s.cfg.bpl + s.cfg.bpl
    · have := frameValue_of_half s a n 1 (j := i - s.cfg.bpl) (by omega)
      rw [show 1 * s.cfg.bpl + (i - s.cfg.bpl) = i by omega] at this
      rw [if_pos hi, if_pos (by omega), this]
      unfold fillValue
      rw [c1, c2]
      by_cases h0 : 0 < n
      · rw [show l1 = 1 by omega]
      · rw [if_neg (by omega), if_neg (by omega)]
    · rw [if_neg hi]
      by_cases hj : i < s.cfg.bpl
      · have := frameValue_of_half s a n 0 hj
        rw [show 0 * s.cfg.bpl + i = i by omega] at this
        rw [if_pos (show i < s.cfg.scratchLen by omega), if_pos (show 0 ≤ i ∧ i < 0 + s.cfg.bpl by omega), this]
        unfold fillValue
        cases a <;> rfl
      · rw [if_neg (show ¬(i < s.cfg.scratchLen) by omega), if_neg (show ¬(0 ≤ i ∧ i < 0 + s.cfg.bpl) by omega)]
  · have hfin : (if l1 < n then l1 + 1 else l1) = min 2 n := by split <;> omega
    rw [if_neg (by omega), hfin] at e2
    rw [e2]
    generalize (if n ≤ l1 ∧ t1.fsm = Fsm.streaming then Fsm.draining else t1.fsm) = f
    generalize t2.scratch = m
    rw [e1]; rfl

/-- What `refresh` leaves when it is taken with buffer `a` hardware-owned (R233): the other buffer becomes so and is
copied forward, the scratch buffer holds its frame's first values, and the transfer is armed. -/
abbrev Refreshed (s t : State) (a : BufId) (n : Nat) : Prop :=
  t.buf a.other = s.buf a.other ∧
  (∀ i, (t.buf a).read i = if i < s.maxLeds then (s.buf a.other).read i else (s.buf a).read i) ∧
  (∀ i, t.scratch.read i =
    if i < s.cfg.scratchLen then some (frameValue s.cfg (s.buf a.other) n i) else s.scratch.read i) ∧
  t = { s with
    buf0 := t.buf0, buf1 := t.buf1, scratch := t.scratch, active := .val a.other,
    nCur := .val n, total := .val (s.cfg.frameLen n), pos := .val 0,
    ledOff := .val (min 2 n), wrPos := .val 0, dmaIdx := .val 0, htFlag := false,
    tcFlag := false, cnt := .val 0, wire := [], busy := true, dmaEn := true, timEn := true, fsm := .armed,
    levels := [] }

/-- `refresh` completes wherever the writable buffer is full. -/
theorem refreshNow_completes {n : Nat} {a : BufId} (ha : s.active = .val a) (hf : BufferFull s a.other) :
    ∃ t, refreshNow n s = .ok t ∧ Refreshed s t a (min n s.maxLeds) := by
  obtain ⟨colors, hcol⟩ := Memory.readUpTo_of_full (s.buf a.other) s.maxLeds hf
  obtain ⟨hl, hr⟩ := (Memory.readUpTo_eq_some _ _ _).1 hcol
  set s2 : State := ({ s with active := .val a.other }).setBuf a ((s.buf a).writeRun 0 colors) with hs2
  have hb2 : s2.buf a.other = s.buf a.other := by cases a <;> rfl
  have hb3 : s2.buf a = (s.buf a).writeRun 0 colors := by cases a <;> rfl
  have hcopy : copyForward { s with active := .val a.other } = .ok s2 :=
    copyForward_eq_ok.2 ⟨a.other, colors, rfl, hl, by intro i hi; rw [← hr i hi]; cases a <;> rfl, by
      rw [BufId.other_other]; cases a <;> rfl⟩
  have hm : s2.maxLeds = s.maxLeds := by cases a <;> rfl
  have hc : s2.cfg = s.cfg := by cases a <;> rfl
  obtain ⟨t, h1, h2, h3⟩ := prefill_completes (s := s2) (n := min n s.maxLeds) (a := a.other) (by cases a <;> rfl)
    (by rw [hm]; omega) (by intro i hi; rw [hb2]; exact hf i (by rwa [hm] at hi))
  have h0 : t.buf0 = s2.buf0 := by rw [h3]
  have h4 : t.buf1 = s2.buf1 := by rw [h3]
  refine ⟨t.armed, refreshNow_eq_ok.2 ⟨a, s2, t, ha, hcopy, h1, rfl⟩, ?_, fun i => ?_, fun i => ?_, ?_⟩
  · show t.buf a.other = _
    rw [← hb2]
    cases a
    · exact h4
    · exact h0
  · have : t.armed.buf a = s2.buf a := by
      cases a
      · exact h0
      · exact h4
    rw [this, hb3, Memory.read_writeRun]
    by_cases hi : i < s.maxLeds
    · rw [if_pos (by omega), if_pos hi, hr i hi]; simp
    · rw [if_neg (by omega), if_neg hi]
  · show t.scratch.read i = _
    rw [h2, hc, hb2]
    cases a <;> rfl
  · rw [h3]
    generalize t.scratch = m
    generalize t.fsm = f
    rw [hs2]
    cases a <;> rfl

/-- Everything `refresh` can do, when it is taken, before a next state: the writable buffer was full, and its frame is
armed. -/
theorem refreshNow_cases {n : Nat} (h : refreshNow n s = .ok t) :
    ∃ a, s.active = .val a ∧ BufferFull s a.other ∧ Refreshed s t a (min n s.maxLeds) := by
  obtain ⟨a, s2, s3, ha, h2, -, -⟩ := refreshNow_eq_ok.1 h
  obtain ⟨a', cs, ha', hl, hr, -⟩ := copyForward_eq_ok.1 h2
  cases ha'
  have hf : BufferFull s a.other := fun i hi => by
    have e : (s.buf a.other).read i = cs[i]? := by rw [← hr i hi]; cases a <;> rfl
    have : cs.length = s.maxLeds := hl
    rw [e, List.getElem?_eq_getElem (by omega)]; rfl
  obtain ⟨t', h1, h2⟩ := refreshNow_completes (n := n) ha hf
  rw [h] at h1; cases h1
  exact ⟨a, ha, hf, h2⟩

end Sys2Proof.Machine
end

