-- ==== Sys2Proof/Laws/Meanings.lean ====
section
/-! SUPPORT. One lemma per instruction that changes the block: everything it can do before a next state. A later
proof over steps is then a case analysis of these. -/

namespace Sys2Proof.Machine

variable {s t : State}

/-- `init` (R230): never twice, in thread context, with the free pin sample, and then the first frame. -/
theorem exec_init_next (h : exec .init s = .next t) : Live s ∧ s.issuer = .thread ∧ s.initialised = false ∧
    ∃ u, fillAll Color.black s.maxLeds s.initHardware = .ok u ∧ refreshNow s.maxLeds u = .ok t := by
  obtain ⟨hv, hf, hi, h⟩ := command_eq_next h
  cases hr : s.initialised
  · rw [hr] at h
    simp only [Bool.false_eq_true, if_false, settle_eq_next] at h
    obtain ⟨u, h1, h2⟩ := bind_eq_ok.1 h
    exact ⟨⟨hv, hf⟩, hi, rfl, u, h1, h2⟩
  · rw [hr] at h; cases h

/-- `set_led` (R160): nothing, or one entry of the writable buffer. -/
theorem exec_setLed_next {index : Nat} {color : Color} (h : exec (.setLed index color) s = .next t) : Ready s ∧
    ((s.maxLeds ≤ index ∧ t = s) ∨ ∃ a, s.active = .val a ∧ index < s.maxLeds ∧
      t = s.setBuf a.other ((s.buf a.other).writeRun index [color])) := by
  obtain ⟨hv, hf, hi, hr, h⟩ := readyCommand_eq_next h
  refine ⟨⟨⟨hv, hf⟩, hi, hr⟩, ?_⟩
  rw [settle_eq_next] at h
  unfold setLedBody at h
  split at h
  · obtain ⟨a, ha, hl, rfl⟩ := writeWritable_eq_ok.1 h
    exact .inr ⟨a, ha, by simpa using hl, rfl⟩
  · rename_i hn
    cases h
    exact .inl ⟨by simpa [indexInRange] using hn, rfl⟩

/-- `set_all_leds` (R161): the fill, and with the flag APP stands at the refresh. -/
theorem exec_setAllLeds_next {count : Nat} {color : Color} {refreshFlag : Bool}
    (h : exec (.setAllLeds color count refreshFlag) s = .next t) : Ready s ∧ ∃ a f, s.active = .val a ∧
      f = s.setBuf a.other ((s.buf a.other).writeRun 0 (List.replicate (min count s.maxLeds) color)) ∧
      t = if refreshFlag = true then f.waitingAt count else f := by
  obtain ⟨hv, hf, hi, hr, h⟩ := readyCommand_eq_next h
  refine ⟨⟨⟨hv, hf⟩, hi, hr⟩, ?_⟩
  obtain ⟨f, hfl, h⟩ := bind_eq_ok.1 (settle_eq_next.1 h)
  obtain ⟨a, ha, rfl⟩ := fillAll_eq_ok.1 hfl
  cases h
  exact ⟨a, _, ha, rfl, rfl⟩

/-- `refresh` (R232, R233): held while a frame is in flight, and otherwise taken. -/
theorem exec_refresh_next {n : Nat} (h : exec (.refresh n) s = .next t) : Ready s ∧
    ((s.busy = true ∧ t = { s with held := some n }) ∨
      (s.busy = false ∧ refreshNow n { s with held := none } = .ok t)) := by
  obtain ⟨hv, hf, hi, hr, h⟩ := readyCommand_eq_next h
  refine ⟨⟨⟨hv, hf⟩, hi, hr⟩, ?_⟩
  by_cases hb : s.busy = true
  · rw [refreshOrHold_of_busy hb] at h
    cases h
    exact .inl ⟨hb, rfl⟩
  · rw [Bool.not_eq_true] at hb
    rw [refreshOrHold_of_idle hb, settle_eq_next] at h
    exact .inr ⟨hb, h⟩

/-- `slot` (R197): a beat, or nothing while timer or DMA is off. -/
theorem exec_slot_next (h : exec .slot s = .next t) : Live s ∧
    ((s.timEn = true ∧ s.dmaEn = true ∧ beat s = .ok t) ∨ ((s.timEn && s.dmaEn) = false ∧ t = s)) := by
  obtain ⟨hv, hf, h⟩ := whenEnabled_eq_next h
  refine ⟨⟨hv, hf⟩, ?_⟩
  rcases h with ⟨he, h⟩ | ⟨he, rfl⟩
  · rw [settle_eq_next] at h
    simp only [slotEnabled, Bool.and_eq_true] at he
    exact .inl ⟨he.1, he.2, h⟩
  · exact .inr ⟨he, rfl⟩

/-- `on_half_transfer` (R200): its service in interrupt context, or nothing while its flag is clear or in thread
context. -/
theorem exec_onHalfTransfer_next (h : exec .onHalfTransfer s = .next t) : Live s ∧
    ((s.htFlag = true ∧ s.issuer = .interrupt ∧ serveHalfTransfer s = .ok t) ∨
      ((s.htFlag = false ∨ s.issuer = .thread) ∧ t = s)) := by
  obtain ⟨hv, hf, h⟩ := whenEnabled_eq_next h
  refine ⟨⟨hv, hf⟩, ?_⟩
  rcases h with ⟨he, h⟩ | ⟨he, rfl⟩
  · obtain ⟨hp, hi⟩ := serviceEnabled_eq_true.1 he
    exact .inl ⟨hp, hi, settle_eq_next.1 h⟩
  · exact .inr ⟨serviceEnabled_eq_false.1 he, rfl⟩

/-- `on_complete` (R201): its service in interrupt context, or nothing while its flag is clear or in thread context. -/
theorem exec_onComplete_next (h : exec .onComplete s = .next t) : Live s ∧
    ((s.tcFlag = true ∧ s.issuer = .interrupt ∧ serveComplete s = .ok t) ∨
      ((s.tcFlag = false ∨ s.issuer = .thread) ∧ t = s)) := by
  obtain ⟨hv, hf, h⟩ := whenEnabled_eq_next h
  refine ⟨⟨hv, hf⟩, ?_⟩
  rcases h with ⟨he, h⟩ | ⟨he, rfl⟩
  · obtain ⟨hp, hi⟩ := serviceEnabled_eq_true.1 he
    exact .inl ⟨hp, hi, settle_eq_next.1 h⟩
  · exact .inr ⟨serviceEnabled_eq_false.1 he, rfl⟩

/-- `tick` (R143, R147): nothing while the timer is off; otherwise it counts, or wraps, with the beat when the DMA is
on. -/
theorem exec_tick_next (h : exec .tick s = .next t) : Live s ∧
    ((s.timEn = false ∧ t = s) ∨ (s.timEn = true ∧ ∃ cnt arr ccr lv,
      s.cnt = .val cnt ∧ s.arr = .val arr ∧ s.ccr = .val ccr ∧ lv = s.levels ++ [lineLevel s.timEn cnt ccr] ∧
      ((cnt ≠ arr ∧ t = { s with levels := lv, cnt := .val (cnt + 1) }) ∨
       (cnt = arr ∧ s.dmaEn = false ∧ t = { s with levels := lv, cnt := .val 0 }) ∨
       (cnt = arr ∧ s.dmaEn = true ∧ beat { s with levels := lv, cnt := .val 0 } = .ok t)))) := by
  obtain ⟨hv, hf, h⟩ := whenEnabled_eq_next h
  refine ⟨⟨hv, hf⟩, ?_⟩
  rcases h with ⟨he, h⟩ | ⟨he, rfl⟩
  · refine .inr ⟨he, ?_⟩
    rw [settle_eq_next] at h
    obtain ⟨cnt, hc, h⟩ := bind_eq_ok.1 h
    obtain ⟨ccr, hcc, h⟩ := bind_eq_ok.1 h
    obtain ⟨arr, ha, h⟩ := bind_eq_ok.1 h
    refine ⟨cnt, arr, ccr, _, Elem.read_eq_ok.1 hc, Elem.read_eq_ok.1 ha, Elem.read_eq_ok.1 hcc, rfl, ?_⟩
    split at h
    · rename_i heq
      have h : (if s.dmaEn = true then beat { s with levels := s.levels ++ [lineLevel s.timEn cnt ccr], cnt := .val 0 }
        else .ok { s with levels := s.levels ++ [lineLevel s.timEn cnt ccr], cnt := .val 0 }) = .ok t := h
      split at h
      · exact .inr (.inr ⟨heq, ‹_›, h⟩)
      · rename_i hd
        cases h
        exact .inr (.inl ⟨heq, by simpa using hd, rfl⟩)
    · cases h
      exact .inl ⟨‹_›, rfl⟩
  · exact .inl ⟨he, rfl⟩

/-- An inner procedure (R271): its body where it is enabled, or nothing. -/
theorem exec_fillHalf_next (h : exec .fillHalf s = .next t) : Live s ∧
    ((fillEnabled s = true ∧ fillHalf s = .ok t) ∨ (fillEnabled s = false ∧ t = s)) := by
  obtain ⟨hv, hf, h⟩ := whenEnabled_eq_next h
  exact ⟨⟨hv, hf⟩, h.imp_left fun ⟨he, h⟩ => ⟨he, settle_eq_next.1 h⟩⟩

theorem exec_arm_next (h : exec .arm s = .next t) : Live s ∧
    ((armEnabled s = true ∧ t = s.armed) ∨ (armEnabled s = false ∧ t = s)) := by
  obtain ⟨hv, hf, h⟩ := whenEnabled_eq_next h
  exact ⟨⟨hv, hf⟩, h.imp_left fun ⟨he, h⟩ => ⟨he, by cases h; rfl⟩⟩

theorem exec_disarm_next (h : exec .disarm s = .next t) : Live s ∧
    ((disarmEnabled s = true ∧ t = s.disarmed) ∨ (disarmEnabled s = false ∧ t = s)) := by
  obtain ⟨hv, hf, h⟩ := whenEnabled_eq_next h
  exact ⟨⟨hv, hf⟩, h.imp_left fun ⟨he, h⟩ => ⟨he, by cases h; rfl⟩⟩

/-- A pure row (R177): its answer, and nothing else. -/
theorem answer_eq_next {run : List CompareWord} (h : answer run s = .next t) : Live s ∧ t = { s with ret := run } := by
  obtain ⟨hv, hf, h⟩ := live_eq_next h
  cases h
  exact ⟨⟨hv, hf⟩, rfl⟩

end Sys2Proof.Machine
end

