-- ==== Sys2Proof/Laws/PerInstr.lean ====
section
/-! SUPPORT. A statement about every instruction as syntax, one lemma per constructor: its encoding has the number of
bytes of its format (R92, R94, R110), which is how `decode` tells the formats apart. -/

namespace Sys2Proof.Laws.EncodeLength

/-- The number of bytes of an instruction's format. -/
def formatBytes : Instr → Nat
  | .init => 8
  | .setLed _ _ => 8
  | .setAllLeds _ _ _ => 8
  | .refresh _ => 8
  | .slot => 8
  | .onHalfTransfer => 8
  | .onComplete => 8
  | .tick => 8
  | .encode _ => 8
  | .fillHalf => 8
  | .arm => 8
  | .disarm => 8
  | .ledwordGrb24 _ _ _ => 3
  | .ledwordRgb24 _ _ _ => 3
  | .ledwordGrbw32 _ _ _ _ => 4
  | .ledwordRgbw32 _ _ _ _ => 4
  | .symBit0 => 1
  | .symBit1 => 1
  | .symPause => 2

/-- The encoding has the format's number of bytes. -/
def Statement (i : Instr) : Prop := (encode i).length = formatBytes i

@[simp] theorem length_bytesOfWord : ∀ n w, (bytesOfWord n w).length = n
  | 0, _ => rfl
  | n + 1, w => by rw [bytesOfWord, List.length_cons, length_bytesOfWord n]

theorem init : Statement .init := length_bytesOfWord 8 _
theorem setLed (index : Nat) (color : Color) : Statement (.setLed index color) := length_bytesOfWord 8 _
theorem setAllLeds (color : Color) (count : Nat) (flag : Bool) : Statement (.setAllLeds color count flag) := length_bytesOfWord 8 _
theorem refresh (nLeds : Nat) : Statement (.refresh nLeds) := length_bytesOfWord 8 _
theorem slot : Statement .slot := length_bytesOfWord 8 _
theorem onHalfTransfer : Statement .onHalfTransfer := length_bytesOfWord 8 _
theorem onComplete : Statement .onComplete := length_bytesOfWord 8 _
theorem tick : Statement .tick := length_bytesOfWord 8 _
theorem encode (color : Color) : Statement (.encode color) := length_bytesOfWord 8 _
theorem fillHalf : Statement .fillHalf := length_bytesOfWord 8 _
theorem arm : Statement .arm := length_bytesOfWord 8 _
theorem disarm : Statement .disarm := length_bytesOfWord 8 _
theorem ledwordGrb24 (green : Byte) (red : Byte) (blue : Byte) : Statement (.ledwordGrb24 green red blue) := rfl
theorem ledwordRgb24 (red : Byte) (green : Byte) (blue : Byte) : Statement (.ledwordRgb24 red green blue) := rfl
theorem ledwordGrbw32 (green : Byte) (red : Byte) (blue : Byte) (white : Byte) : Statement (.ledwordGrbw32 green red blue white) := rfl
theorem ledwordRgbw32 (red : Byte) (green : Byte) (blue : Byte) (white : Byte) : Statement (.ledwordRgbw32 red green blue white) := rfl
theorem symBit0 : Statement .symBit0 := rfl
theorem symBit1 : Statement .symBit1 := rfl
theorem symPause : Statement .symPause := rfl

end Sys2Proof.Laws.EncodeLength
end

