-- ==== Sys2Proof/Tests/Slice0.lean ====
section
/-! SUPPORT. The model's own tests: expected results are the vectors of `95_test_vectors.md` or hand calculation from
the rules named. Then one witness for the hypotheses of each obligation that has any. -/

namespace Sys2Proof.Tests

-- one theorem at a time: fewer threads, each of which reserves a stack
set_option Elab.async false

open Sys2Proof Sys2Proof.Machine

/-! ## Helpers -/

/-- The outcome is a next state with this property. -/
def runs (o : Host.Outcome State Fault Refusal) (p : State → Bool) : Bool :=
  match o with
  | .next t => p t
  | .fault _ => false
  | .refused _ => false

/-- The outcome is this fault. -/
def faults (o : Host.Outcome State Fault Refusal) (r : Fault) : Bool :=
  match o with
  | .next _ => false
  | .fault f => decide (f = r)
  | .refused _ => false

/-- The outcome is this refusal. -/
def refuses (o : Host.Outcome State Fault Refusal) (r : Refusal) : Bool :=
  match o with
  | .next _ => false
  | .fault _ => false
  | .refused f => decide (f = r)

theorem next_of_runs {o : Host.Outcome State Fault Refusal} {p : State → Bool} (s : State) (h : runs o p = true) :
    o = .next (s.after o) := by
  cases o with
  | next t => rfl
  | fault r => cases h
  | refused r => cases h

/-- REF-A, REF-B with the other channel order. -/
def refARgb : Config := { Config.refA with params := { Config.refA.params with order := .rgb } }
def refBGrb : Config := { Config.refB with params := { Config.refB.params with order := .grb } }

/-- REF-A with another pulse protocol: the inputs of a row of the Timing Table's vectors. -/
def protocol (clk period t0 t1 pause : Nat) : Params :=
  { Config.refA.params with clkHz := clk, periodNs := period, t0hNs := t0, t1hNs := t1, pauseNs := pause }

/-- `BPL = 24` with this `PAUSE_MIN_SLOTS` (vectors L3 to L6). -/
def withPause (slots : Nat) : Config :=
  { Config.refA with table := { Config.refA.table with pauseMinSlots := slots } }

def red : Color := ⟨0xFF, 0, 0, 0⟩
def v1 : Color := ⟨0xA5, 0x3C, 0xFF, 0⟩

/-- REF-C with one LED and a pause of one slot: `frame_len(0) = frame_len(1) = 48`, two services a frame. -/
def toy : Config := Params.build { Config.refC.params with maxLeds := 1, pauseNs := 1250 }

/-- The toy block at rest after a frame of one LED from buffer 1, which holds the colour of V1. -/
def atRest : State :=
  { State.resetWith toy with
    buf0 := [(0, Color.black)], buf1 := [(0, v1)], active := .val .b1,
    scratch := (List.range 48).map fun x => (x, 0), wrPos := .val 24, ledOff := .val 1, pos := .val 48,
    total := .val 48, nCur := .val 1, arr := .val 4, cnt := .val 0, ccr := .val 0, dmaIdx := .val 0,
    dmaConf := .val (dmaConfOf toy), outMode := .pushPull, initialised := true }

/-- The toy block with a frame of one LED from buffer 1 in flight: `q` services done, `k` beats taken. -/
def inFlight (q k : Nat) : State :=
  let wire := (List.range k).map (frameValue toy [(0, v1)] 1)
  { atRest with
    scratch := (List.range 48).map fun x => (x, frameValue toy [(0, v1)] 1 (q * 24 + (x + q % 2 * 24) % 48)),
    wrPos := .val (q % 2 * 24), ledOff := .val 1, pos := .val (q * 24), ccr := .val (wire.getLastD 0), busy := true,
    timEn := true, dmaEn := true, fsm := phase 1 q k, wire := wire, dmaIdx := .val (k % 48),
    htFlag := decide (24 * (q + 1) ≤ k ∧ q % 2 = 0), tcFlag := decide (24 * (q + 1) ≤ k ∧ q % 2 = 1) }

/-- The same state with the next step issued from interrupt context. -/
def irq (s : State) : State := { s with issuer := .interrupt }

/-- The toy block inside `refresh`, before and after `prefill`, and inside the final `on_complete`. -/
def insideFill : State := { atRest with ledOff := .val 0, wrPos := .val 0, pos := .val 0 }
def insideArm : State := { insideFill with ledOff := .val 1, dmaIdx := .val 5, cnt := .val 3 }
def insideDisarm : State := (irq (inFlight 1 48)).acknowledged .transferComplete 24

/-! ## WellFormed: an ill-formed term for each check -/

theorem test_wf_index : (Instr.setLed 65535 v1).wf Config.refA.params = true ∧
    (Instr.setLed 65536 v1).wf Config.refA.params = false := by decide
theorem test_wf_count : (Instr.setAllLeds v1 65535 true).wf Config.refA.params = true ∧
    (Instr.setAllLeds v1 65536 true).wf Config.refA.params = false := by decide
theorem test_wf_nLeds : (Instr.refresh 65535).wf Config.refA.params = true ∧
    (Instr.refresh 65536).wf Config.refA.params = false := by decide
theorem test_wf_white : (Instr.setLed 0 ⟨1, 2, 3, 4⟩).wf Config.refA.params = false ∧
    (Instr.setAllLeds ⟨1, 2, 3, 4⟩ 0 false).wf Config.refA.params = false ∧
    (Instr.encode ⟨1, 2, 3, 4⟩).wf Config.refA.params = false ∧
    (Instr.encode ⟨1, 2, 3, 4⟩).wf Config.refB.params = true := by decide
theorem test_fits : (Instr.setLed 65536 v1).fits = false ∧ (Instr.setAllLeds v1 65536 false).fits = false ∧
    (Instr.refresh 65536).fits = false := by decide
theorem test_ofOrder : (Instr.ledwordGrb24 1 2 3).ofOrder .rgb = false ∧ (Instr.ledwordRgb24 1 2 3).ofOrder .grb = false ∧
    (Instr.ledwordGrbw32 1 2 3 4).ofOrder .rgb = false ∧ (Instr.ledwordRgbw32 1 2 3 4).ofOrder .grb = false := by decide
/-- R96: each LED word format is one of its own variant only, in order and in length. -/
theorem test_wf_variant : [Config.refA, refARgb, refBGrb, Config.refB].map (fun c => (Instr.ledwordGrb24 1 2 3).wf c.params) =
      [true, false, false, false] ∧
    [Config.refA, refARgb, refBGrb, Config.refB].map (fun c => (Instr.ledwordRgb24 1 2 3).wf c.params) =
      [false, true, false, false] ∧
    [Config.refA, refARgb, refBGrb, Config.refB].map (fun c => (Instr.ledwordGrbw32 1 2 3 4).wf c.params) =
      [false, false, true, false] ∧
    [Config.refA, refARgb, refBGrb, Config.refB].map (fun c => (Instr.ledwordRgbw32 1 2 3 4).wf c.params) =
      [false, false, false, true] := by decide
/-- T14 and T15 are no configurations, T13 is one (R11). -/
theorem test_valid : (protocol 4000000 1250 400 800 50000).build.valid = true ∧
    (protocol 2000000 1250 400 800 50000).build.valid = false ∧
    (protocol 800000 1250 400 800 50000).build.valid = false ∧ toy.valid = true := by decide

/-! ## Decoding: for each constructor a word written out from the fields of R110, R92, R94 -/

theorem test_decode_init : decodeTableWord 64 0b0000 = some .init := by decide
/-- `op` 1 in 3..0; `a` = 5 in 19..4; red 1, green 2, blue 3, white 4 from 20, 28, 36, 44 on. -/
theorem test_decode_setLed :
    decodeTableWord 64 0b00000100_00000011_00000010_00000001_0000000000000101_0001 =
      some (.setLed 5 ⟨1, 2, 3, 4⟩) := by decide
theorem test_decode_setAllLeds :
    decodeTableWord 64 0b1_00000100_00000011_00000010_00000001_1000000000000000_0010 =
      some (.setAllLeds ⟨1, 2, 3, 4⟩ 32768 true) := by decide
theorem test_decode_refresh : decodeTableWord 64 0b1000000000000001_0011 = some (.refresh 32769) := by decide
theorem test_decode_slot : decodeTableWord 64 0b0100 = some .slot := by decide
theorem test_decode_onHalfTransfer : decodeTableWord 64 0b0101 = some .onHalfTransfer := by decide
theorem test_decode_onComplete : decodeTableWord 64 0b0110 = some .onComplete := by decide
theorem test_decode_tick : decodeTableWord 64 0b0111 = some .tick := by decide
theorem test_decode_encode :
    decodeTableWord 64 0b10000000_01000000_00100000_00010000_0000000000000000_1000 =
      some (.encode ⟨0x10, 0x20, 0x40, 0x80⟩) := by decide
theorem test_decode_fillHalf : decodeTableWord 64 0b1001 = some .fillHalf := by decide
theorem test_decode_arm : decodeTableWord 64 0b1010 = some .arm := by decide
theorem test_decode_disarm : decodeTableWord 64 0b1011 = some .disarm := by decide
/-- `[23:16]`, `[15:8]`, `[7:0]`. -/
theorem test_decode_ledwordGrb24 :
    decode .grb (tableBytes 24 0b00111100_10100101_11111111) = .ok (.ledwordGrb24 0x3C 0xA5 0xFF) := by decide
theorem test_decode_ledwordRgb24 :
    decode .rgb (tableBytes 24 0b10100101_00111100_11111111) = .ok (.ledwordRgb24 0xA5 0x3C 0xFF) := by decide
theorem test_decode_ledwordGrbw32 :
    decode .grb (tableBytes 32 0b00111100_10100101_11111111_10000001) =
      .ok (.ledwordGrbw32 0x3C 0xA5 0xFF 0x81) := by decide
theorem test_decode_ledwordRgbw32 :
    decode .rgb (tableBytes 32 0b10100101_00111100_11111111_10000001) =
      .ok (.ledwordRgbw32 0xA5 0x3C 0xFF 0x81) := by decide
theorem test_decode_symBit0 : decodeTableWord 8 0b0 = some .symBit0 := by decide
theorem test_decode_symBit1 : decodeTableWord 8 0b1 = some .symBit1 := by decide
theorem test_decode_symPause : decodeTableWord 16 0b0000000000000000 = some .symPause := by decide
/-- The command words of the programs and of the vectors B1 to B9. -/
theorem test_decode_vectors : decodeTableWord 64 0xFF00021 = some (.setLed 2 ⟨0xFF, 0, 0, 0⟩) ∧
    decodeTableWord 64 0x3020103EC1 = some (.setLed 1004 ⟨1, 2, 3, 0⟩) ∧
    decodeTableWord 64 0x3020100022 = some (.setAllLeds ⟨1, 2, 3, 0⟩ 2 false) ∧
    decodeTableWord 64 0x100CCBBAA00022 = some (.setAllLeds ⟨0xAA, 0xBB, 0xCC, 0⟩ 2 true) ∧
    decodeTableWord 64 0x93 = some (.refresh 9) := by decide
theorem test_decode_reserved : decode .grb (tableBytes 64 12) = .error .unassignedOrdinal ∧
    decode .grb (tableBytes 64 0x10) = .error .unusedFieldNotZero ∧
    decode .grb (tableBytes 64 0x10000000000001) = .error .unusedFieldNotZero ∧
    decode .grb (tableBytes 64 0x18) = .error .unusedFieldNotZero ∧
    decode .grb (tableBytes 8 2) = .error .notASerialBit ∧
    decode .grb (tableBytes 16 33) = .error .reservedCompareWord ∧
    decode .grb (tableBytes 40 0) = .error .wrongLength := by decide

/-! ## Timing Table (vectors T1 to T13) and frame length (L1 to L6) -/

theorem test_timing_exact : (protocol 84000000 1250 400 800 50000).timingTable = ⟨104, 33, 67, 40⟩ ∧
    (protocol 84000000 1250 300 600 80000).timingTable = ⟨104, 25, 50, 64⟩ ∧
    (protocol 168000000 1250 400 850 300000).timingTable = ⟨209, 67, 142, 240⟩ ∧
    (protocol 4000000 1250 400 800 50000).timingTable = ⟨4, 1, 3, 40⟩ := by decide
/-- T5 and T6: a tie rounds up; T10 to T12: the pause rounds up. -/
theorem test_timing_ties : (protocol 10000000 1250 400 800 50000).timingTable = ⟨12, 4, 8, 40⟩ ∧
    (protocol 72000000 1250 625 800 50000).timingTable = ⟨89, 45, 57, 40⟩ ∧
    (protocol 84000000 1250 400 800 1).timingTable = ⟨104, 33, 67, 1⟩ ∧
    (protocol 84000000 1250 400 800 1250).timingTable = ⟨104, 33, 67, 1⟩ ∧
    (protocol 84000000 1250 400 800 1251).timingTable = ⟨104, 33, 67, 2⟩ := by decide
theorem test_frameLen : [0, 1, 2, 3, 255].map Config.refA.frameLen = [48, 96, 96, 144, 6192] ∧
    [0, 1, 2, 255].map Config.refB.frameLen = [64, 128, 128, 8256] ∧
    [0, 1, 2].map (withPause 24).frameLen = [48, 48, 96] ∧
    [0, 1, 2].map (withPause 48).frameLen = [48, 96, 96] ∧
    [0, 1, 2].map (withPause 49).frameLen = [96, 96, 144] ∧
    [0, 1, 2].map (withPause 97).frameLen = [144, 144, 192] := by decide
theorem test_pauseSlots : [0, 1, 2, 3].map Config.refA.pauseSlots = [48, 72, 48, 72] ∧
    [0, 1, 2, 3].map (withPause 1).pauseSlots = [48, 24, 48, 24] := by decide

/-! ## The pure rows (vectors E1 to E12) -/

theorem test_encode_v1 : runs (exec (.encode v1) State.reset) (fun t => decide (t.ret =
    [33, 33, 67, 67, 67, 67, 33, 33, 67, 33, 67, 33, 33, 67, 33, 67, 67, 67, 67, 67, 67, 67, 67, 67])) = true := by
  decide
/-- E10. -/
theorem test_encode_rgbw : runs (exec (.encode ⟨0x12, 0x34, 0x56, 0x78⟩) (State.resetWith Config.refB))
    (fun t => decide (t.ret = [25, 25, 25, 50, 25, 25, 50, 25, 25, 25, 50, 50, 25, 50, 25, 25, 25, 50, 25, 50, 25, 50,
      50, 25, 25, 50, 50, 50, 50, 25, 25, 25])) = true := by decide
/-- E7: red bit 7 and green bit 0 only. -/
theorem test_ledwordGrb24 : runs (exec (.ledwordGrb24 0x01 0x80 0x00) State.reset)
    (fun t => decide (t.ret = List.replicate 7 33 ++ [67, 67] ++ List.replicate 15 33)) = true := by decide
/-- E8. -/
theorem test_ledwordRgb24 : runs (exec (.ledwordRgb24 0x80 0x01 0x00) (State.resetWith refARgb))
    (fun t => decide (t.ret = [67] ++ List.replicate 14 33 ++ [67] ++ List.replicate 8 33)) = true := by decide
/-- E3. -/
theorem test_ledwordGrbw32 : runs (exec (.ledwordGrbw32 0x3C 0xA5 0xFF 0x81) (State.resetWith refBGrb))
    (fun t => decide (t.ret = [25, 25, 50, 50, 50, 50, 25, 25, 50, 25, 50, 25, 25, 50, 25, 50] ++ List.replicate 8 50 ++
      [50] ++ List.replicate 6 25 ++ [50])) = true := by decide
/-- E4. -/
theorem test_ledwordRgbw32 : runs (exec (.ledwordRgbw32 0xA5 0x3C 0xFF 0x81) (State.resetWith Config.refB))
    (fun t => decide (t.ret = [50, 25, 50, 25, 25, 50, 25, 50, 25, 25, 50, 50, 50, 50, 25, 25] ++ List.replicate 8 50 ++
      [50] ++ List.replicate 6 25 ++ [50])) = true := by decide
theorem test_symbols : runs (exec .symBit0 State.reset) (fun t => decide (t.ret = [33])) = true ∧
    runs (exec .symBit1 State.reset) (fun t => decide (t.ret = [67])) = true ∧
    runs (exec .symPause State.reset) (fun t => decide (t.ret = [0])) = true := by decide

/-! ## The commands (vectors F1, F3, X1 to X3, X7, B1 to B8) -/

/-- F1 (but for the pin mode, which ENV's free bit selects). -/
theorem test_init : runs (exec .init State.reset) (fun t => decide (t.arr = .val 104 ∧ t.initialised = true ∧
    t.active = .val .b1 ∧ t.buf0 = (List.range 4).map (fun i => (i, Color.black)) ∧ t.buf1 = t.buf0 ∧ t.nCur = .val 4 ∧
    t.total = .val 144 ∧ t.pos = .val 0 ∧ t.ledOff = .val 2 ∧ t.wrPos = .val 0 ∧
    t.scratch = (List.range 48).map (fun i => (i, 33)) ∧ t.dmaIdx = .val 0 ∧ t.ccr = .val 0 ∧ t.busy = true ∧
    t.fsm = .armed ∧ t.timEn = true ∧ t.dmaEn = true ∧ t.frames = [])) = true := by decide +kernel
/-- X1, X2, X7. -/
theorem test_refusals : refuses (exec (.setLed 0 Color.black) State.reset) .notInitialised = true ∧
    refuses (exec .init atRest) .alreadyInitialised = true ∧
    refuses (exec (.refresh 1) { atRest with issuer := .interrupt }) .commandFromInterrupt = true := by decide

/-- The block of the vectors B1 to B9: REF-A with four black LEDs, at rest, buffer 1 hardware-owned. -/
def blackBlock : State :=
  { atRest with
    cfg := Config.refA, buf0 := (List.range 4).map (fun i => (i, Color.black)),
    buf1 := (List.range 4).map (fun i => (i, Color.black)) }

/-- B1 and B3. -/
theorem test_setLed : runs (exec (.setLed 2 red) blackBlock) (fun t => decide (t = { blackBlock with
      buf0 := [(0, Color.black), (1, Color.black), (2, red), (3, Color.black)] })) = true ∧
    runs (exec (.setLed 4 red) blackBlock) (fun t => decide (t = blackBlock)) = true := by decide
/-- B2: the last valid index, in the writable buffer 1 when buffer 0 is hardware-owned. -/
theorem test_setLed_last : runs (exec (.setLed 3 red) { blackBlock with active := .val .b0 }) (fun t => decide (
    t.buf1 = [(0, Color.black), (1, Color.black), (2, Color.black), (3, red)] ∧ t.buf0 = blackBlock.buf0)) = true := by
  decide
/-- B5, B6 and B7. -/
theorem test_setAllLeds : runs (exec (.setAllLeds red 2 false) blackBlock) (fun t => decide (
      t.buf0 = [(0, red), (1, red), (2, Color.black), (3, Color.black)] ∧ t.buf1 = blackBlock.buf1 ∧ t.busy = false)) = true ∧
    runs (exec (.setAllLeds red 7 false) blackBlock) (fun t => decide (
      t.buf0 = [(0, red), (1, red), (2, red), (3, red)])) = true ∧
    runs (exec (.setAllLeds red 0 false) blackBlock) (fun t => decide (t = blackBlock)) = true := by decide
/-- B8: the fill at once, and then the refresh APP stands at. -/
theorem test_setAllLeds_refresh : runs (exec (.setAllLeds red 2 true) blackBlock) (fun t => decide (
      t.buf0 = [(0, red), (1, red), (2, Color.black), (3, Color.black)] ∧ t.held = some 2 ∧ t.busy = false ∧
      t.active = .val .b1)) = true ∧
    runs (step (blackBlock.after (exec (.setAllLeds red 2 true) blackBlock))) (fun t => decide (
      t.active = .val .b0 ∧ t.buf0 = [(0, red), (1, red), (2, Color.black), (3, Color.black)] ∧ t.buf1 = t.buf0 ∧
      t.nCur = .val 2 ∧ t.total = .val 96 ∧ t.fsm = .armed ∧ t.busy = true ∧ t.held = none)) = true := by
  decide +kernel
/-- F3: the operand is clamped. S2: with one LED the second half is the pause. -/
theorem test_refresh : runs (exec (.refresh 9) blackBlock) (fun t => decide (t.nCur = .val 4 ∧ t.total = .val 144)) = true ∧
    runs (exec (.refresh 1) blackBlock) (fun t => decide (t.active = .val .b0 ∧ t.total = .val 96 ∧ t.ledOff = .val 1 ∧
      t.scratch.map Prod.snd = List.replicate 24 33 ++ List.replicate 24 0)) = true := by decide +kernel
/-- X3: a refresh with a frame in flight changes nothing but that APP waits. -/
theorem test_refresh_held : runs (exec (.refresh 1) (inFlight 0 0)) (fun t => decide (
    t = { inFlight 0 0 with held := some 1 })) = true := by decide +kernel

/-! ## The streaming engine (vectors S2 to S7, X4, X5) -/

/-- The first beat; beat 24, which raises the half-transfer flag (S5). -/
theorem test_slot : runs (exec .slot (inFlight 0 0)) (fun t => decide (t.fsm = .streaming ∧ t.ccr = .val 1 ∧ t.wire = [1] ∧
      t.dmaIdx = .val 1 ∧ t.htFlag = false)) = true ∧
    runs (exec .slot (inFlight 0 23)) (fun t => decide (t.dmaIdx = .val 24 ∧ t.htFlag = true ∧ t.ccr = .val 3)) = true ∧
    runs (exec .slot (inFlight 1 47)) (fun t => decide (t.dmaIdx = .val 0 ∧ t.tcFlag = true ∧ t.ccr = .val 0)) = true := by
  decide +kernel
/-- X4: the 48th beat with the flag of the 24th still pending. X5: likewise the 72nd. -/
theorem test_slot_overrun : faults (exec .slot (inFlight 0 47)) .refillOverrun = true ∧
    runs (exec .slot (inFlight 0 46)) (fun t => decide (t.htFlag = true ∧ t.tcFlag = false)) = true ∧
    faults (exec .slot (inFlight 1 71)) .refillOverrun = true := by decide +kernel
/-- S5. -/
theorem test_onHalfTransfer : runs (exec .onHalfTransfer (irq (inFlight 0 24))) (fun t => decide (t.htFlag = false ∧
    t.pos = .val 24 ∧ t.ledOff = .val 1 ∧ t.fsm = .draining ∧ t.wrPos = .val 24 ∧
    t.scratch.map Prod.snd = List.replicate 48 0)) = true := by decide +kernel
/-- The end of the frame: `disarm`, with the trace pushed; and five beats later (S6), five more zeros. -/
theorem test_onComplete : runs (exec .onComplete (irq (inFlight 1 48))) (fun t => decide (t.pos = .val 48 ∧ t.fsm = .idle ∧
      t.busy = false ∧ t.timEn = false ∧ t.dmaEn = false ∧ t.frames = [encodeColor toy v1 ++ List.replicate 24 0])) = true ∧
    runs (exec .onComplete (irq (inFlight 1 53))) (fun t => decide (
      t.frames = [encodeColor toy v1 ++ List.replicate 29 0] ∧ t.dmaIdx = .val 5)) = true := by decide +kernel
/-- Short of the total `on_complete` refills the second half instead. -/
theorem test_onComplete_refills : runs (exec .onComplete (irq { inFlight 1 48 with total := .val 96 })) (fun t => decide (
    t.pos = .val 48 ∧ t.tcFlag = false ∧ t.wrPos = .val 0 ∧ t.busy = true)) = true := by decide +kernel
/-- R271: thread context never takes a service. -/
theorem test_service_in_thread : runs (exec .onHalfTransfer (inFlight 0 24)) (fun t => decide (t = inFlight 0 24)) = true ∧
    runs (exec .onComplete (inFlight 1 48)) (fun t => decide (t = inFlight 1 48)) = true := by decide +kernel
/-- R193: an LED's run at the write position; nothing written yet faults. -/
theorem test_fillHalf : runs (exec .fillHalf insideFill) (fun t => decide (t.ledOff = .val 1 ∧
      t.wrPos = .val 24 ∧ t.scratch.map Prod.snd = encodeColor toy v1 ++ List.replicate 24 0)) = true ∧
    faults (exec .fillHalf { insideFill with buf1 := [] }) .readUnspecified = true := by decide +kernel
theorem test_arm : runs (exec .arm insideArm) (fun t => decide (t.fsm = .armed ∧ t.busy = true ∧ t.timEn = true ∧
      t.dmaEn = true ∧ t.dmaIdx = .val 0 ∧ t.cnt = .val 0 ∧ t.pos = .val 0)) = true := by decide +kernel
theorem test_disarm : runs (exec .disarm insideDisarm) (fun t => decide (t.fsm = .idle ∧ t.busy = false ∧
    t.frames = [encodeColor toy v1 ++ List.replicate 24 0] ∧ t.wire = (inFlight 1 48).wire)) = true := by decide +kernel
/-- R291, R304: `arm` does nothing before `init`, `disarm` cuts no frame, and `fill_half` spoils no half. -/
theorem test_called_only : runs (exec .arm State.reset) (fun t => decide (t = State.reset)) = true ∧
    runs (exec .disarm (irq (inFlight 0 2))) (fun t => decide (t = irq (inFlight 0 2))) = true ∧
    runs (exec .fillHalf (inFlight 0 2)) (fun t => decide (t = inFlight 0 2)) = true := by decide +kernel
/-! ## The carrier (W1, W2) -/

/-- W2: the fifth tick of a period finds `cnt = arr` and takes the beat; the tick before only counts. -/
theorem test_tick : runs (exec .tick { inFlight 0 0 with cnt := .val 3 }) (fun t => decide (t.cnt = .val 4 ∧
      t.wire = [] ∧ t.levels = [.low])) = true ∧
    runs (exec .tick { inFlight 0 0 with cnt := .val 4 }) (fun t => decide (t.cnt = .val 0 ∧ t.wire = [1] ∧
      t.ccr = .val 1 ∧ t.levels = [.low])) = true := by decide +kernel
/-- W2: the sixth tick is high, the seventh low. -/
theorem test_tick_level : runs (exec .tick (inFlight 0 1)) (fun t => decide (t.levels = [.high])) = true ∧
    runs (exec .tick { inFlight 0 1 with cnt := .val 1 }) (fun t => decide (t.levels = [.low])) = true := by
  decide +kernel
/-- R150, R309: a released wire is high only with a pull-up. -/
theorem test_drive : (inFlight 0 1).drive = .val .high ∧
    ({ inFlight 0 1 with outMode := .openDrain } : State).drive = .val .released ∧
    wireLevel true .released = .high ∧ wireLevel false .released = .low ∧ State.reset.drive = .unspecified := by
  decide +kernel
/-- W1. -/
theorem test_pulse : pulse Config.refA 33 = List.replicate 33 .high ++ List.replicate 72 .low ∧
    pulse Config.refA 67 = List.replicate 67 .high ++ List.replicate 38 .low ∧
    pulse Config.refA 0 = List.replicate 105 .low := by decide

/-! ## The step -/

/-- The placed word runs next: `slot` is not enabled at reset, `0x93` is refused before `init`. -/
theorem test_step_first : runs (step (State.reset.withFetchWord 64 0x4)) (fun t => decide (t = State.reset)) = true ∧
    refuses (step (State.reset.withFetchWord 64 0x93)) .notInitialised = true ∧
    refuses (step (State.reset.withFetchWord 64 0xC)) (.undecodable .unassignedOrdinal) = true ∧
    refuses (step (State.reset.withFetchWord 64 0x4000000000001)) .illFormed = true := by decide +kernel
/-- R96: an LED word of either length runs in the build it is of, and is refused in the other. -/
theorem test_step_ledword : runs (step (State.reset.withFetchWord 24 0)) (fun t => decide (t.ret = List.replicate 24 33)) = true ∧
    runs (step (State.reset.withFetchWord 32 0)) (fun t => decide (t.ret = List.replicate 32 33)) = true ∧
    refuses (step { State.reset with script := [⟨.thread, .word [0, 0, 0, 0]⟩] }) .illFormed = true := by decide +kernel
/-- R10, R99: a build with `IDX_W = 17` takes an index above 65535, by a call. -/
theorem test_step_wide : runs (step { atRest with
      cfg := { toy with params := { toy.params with maxLeds := 100000, idxW := 17 } },
      script := [⟨.thread, .call (.setLed 70000 red)⟩] })
    (fun t => decide (t.buf0 = [(0, Color.black), (70000, red)])) = true := by decide +kernel
/-- With nothing requested the pending service comes first, then the engine (R205). -/
theorem test_step_eager : runs (step (inFlight 0 24)) (fun t => decide (t.pos = .val 24)) = true ∧
    runs (step (inFlight 0 3)) (fun t => decide (t.wire.length = 4)) = true := by decide +kernel

/-! ## Witnesses: a concrete state and operands that meet all the hypotheses of each obligation together, each clause at
a boundary of its range -/

theorem witness_RoundIsHalfUpAndCeilIsLeast : 0 < 1 ∧ 7 ≤ 1 * 7 := by decide
/-- The period is exactly half a tick. -/
theorem witness_TimingTableFollowsTheFormulas : (protocol 400000 1250 400 800 1250).positive = true ∧
    500000000 ≤ 400000 * 1250 ∧ 1250 ≤ 1250 * 1 := by decide
theorem witness_FrameLenIsTheLeastMultiple : 48 % toy.scratchLen = 0 ∧ 1 * toy.bpl + toy.table.pauseMinSlots ≤ 48 := by
  decide
theorem witness_PauseSlotsProperties : toy.valid = true ∧ 2 % 2 = 0 % 2 := by decide
theorem witness_EncodeIsTheSerialBits : 0 < toy.bpl ∧ 23 < toy.bpl := by decide
theorem live_reset : Live State.reset := by decide
theorem witness_EncodeRowAnswersItsRun : Live State.reset := live_reset
theorem witness_EncodeIsInjective : Config.refB.valid = true ∧ (⟨1, 2, 3, 4⟩ : Color).wf Config.refB.params.hasWhite = true ∧
    encodeColor Config.refB ⟨1, 2, 3, 4⟩ = encodeColor Config.refB ⟨1, 2, 3, 4⟩ := by decide
theorem witness_CompareValuesReadBack : toy.valid = true ∧ 2 ≠ 0 ∧ 2 ≠ toy.table.t0h ∧ 2 ≠ toy.table.t1h := by decide
theorem witness_SymbolRowsAnswer : Live State.reset := live_reset
theorem witness_LedWordsAnswerTheirBits : Live State.reset ∧ 23 < 24 ∧ 31 < 32 := by decide
theorem witness_LedWordIsTheBuildsEncoding :
    (Config.refA.params.order = .grb ∧ Config.refA.params.hasWhite = false) ∧
    (refARgb.params.order = .rgb ∧ refARgb.params.hasWhite = false) ∧
    (refBGrb.params.order = .grb ∧ refBGrb.params.hasWhite = true) ∧
    (Config.refB.params.order = .rgb ∧ Config.refB.params.hasWhite = true) := by decide
theorem witness_FrameIsItsValues : ∀ i, i < 1 → (Memory.read [(0, v1)] i).isSome = true := by decide
theorem witness_LedWordLengthIsTheBuilds : decode toy.params.order [1, 2, 3] = .ok (.ledwordGrb24 3 2 1) ∧
    [(1 : Byte), 2, 3].length = 3 ∧ decode toy.params.order [1, 2, 3, 4] = .ok (.ledwordGrbw32 4 3 2 1) ∧
    [(1 : Byte), 2, 3, 4].length = 4 := by decide
theorem witness_DecodeOfEncode : (Instr.setLed 65535 ⟨255, 255, 255, 255⟩).fits = true ∧
    (Instr.ledwordRgbw32 0 255 0 255).fits = true ∧ (Instr.ledwordRgbw32 0 255 0 255).ofOrder .rgb = true ∧
    (Instr.ledwordGrb24 0 255 0).ofOrder .grb = true := by decide
theorem witness_EncodeOfDecode : decode .rgb [3, 2, 1] = .ok (.ledwordRgb24 1 2 3) := by decide
/-- An unassigned ordinal; the bits next to each field: 52 of `set_led`, 53 of `set_all_leds`, 20 of `refresh`, 4, 19
and 52 of `encode`, 4 and 63 of a row without operands. -/
theorem witness_ReservedCommandWordsAreRejected : (12 < 2 ^ 64 ∧ 12 ≤ 12 % 16) ∧
    ((2 ^ 52 + 1) % 16 < 12 ∧ (2 ^ 52 + 1).testBit 52 = true ∧ (2 ^ 53 + 2).testBit 53 = true ∧
      (2 ^ 20 + 3).testBit 20 = true ∧ (2 ^ 4 + 8).testBit 4 = true ∧ (2 ^ 19 + 8).testBit 19 = true ∧
      (2 ^ 52 + 8).testBit 52 = true ∧ (2 ^ 4 + 11).testBit 4 = true ∧ (2 ^ 63 + 4).testBit 63 = true ∧
      2 ^ 63 + 4 < 2 ^ 64) := by decide
theorem ready_atRest : Ready atRest := by decide
theorem ready_inFlight : Ready (inFlight 0 0) := by decide +kernel

/-- In range: the last valid index. Out of range: the first invalid one. Before `init`. From interrupt context. -/
theorem witness_SetLedWritesOneEntry : (Ready atRest ∧ atRest.active = .val .b1 ∧ 0 < atRest.maxLeds) ∧
    (Ready atRest ∧ atRest.maxLeds ≤ 1) ∧
    (Live State.reset ∧ State.reset.issuer = .thread ∧ State.reset.initialised = false) ∧
    (let s := { atRest with issuer := .interrupt }
     Live s ∧ s.issuer = .interrupt ∧ s.initialised = true) := by decide
theorem witness_SetAllLedsFills : Ready atRest ∧ atRest.active = .val .b1 := by decide
theorem witness_SetAllLedsWithRefreshIsFillThenRefresh :
    (let f := atRest.after (exec (.setAllLeds red 1 false) atRest)
     exec (.setAllLeds red 1 false) atRest = .next f ∧ f.busy = false ∧ f.htFlag = false ∧ f.tcFlag = false ∧
       f.script = []) ∧
    exec (.setAllLeds red 1 false) { State.reset with initialised := true } = .fault .readUnspecified ∧
    exec (.setAllLeds red 1 false) State.reset = .refused .notInitialised :=
  ⟨⟨next_of_runs atRest (p := fun _ => true) (by decide +kernel), by decide +kernel⟩, by rfl, by rfl⟩
/-- With `busy = 0` and with `busy = 1`; the buffer is full after the fill, all of it filled or none. -/
theorem witness_SetAllLedsWithRefreshCompletes :
    (Ready atRest ∧ atRest.active = .val .b1 ∧ atRest.busy = false ∧ atRest.htFlag = false ∧ atRest.tcFlag = false ∧
      atRest.script = [] ∧ 0 < atRest.maxLeds ∧ 47 < atRest.cfg.scratchLen ∧
      BufferFull (atRest.after (exec (.setAllLeds red 1 true) atRest)) BufId.b1.other ∧
      BufferFull (atRest.after (exec (.setAllLeds red 0 true) atRest)) BufId.b1.other) ∧
    (Ready (inFlight 0 0) ∧ (inFlight 0 0).active = .val .b1 ∧ (inFlight 0 0).busy = true) := by decide +kernel
theorem witness_MisuseIsRefused :
    (Live State.reset ∧ State.reset.issuer = .thread ∧ State.reset.initialised = false) ∧
    (Live atRest ∧ atRest.issuer = .thread ∧ atRest.initialised = true) ∧
    (let s := { atRest with issuer := .interrupt }
     Live s ∧ s.issuer = .interrupt ∧ (Instr.refresh 1).isCommand = true ∧
       (Instr.refresh 1 = .init ↔ s.initialised = false)) ∧
    (let s := { State.reset with issuer := .interrupt }
     Live s ∧ s.issuer = .interrupt ∧ Instr.init.isCommand = true ∧
       (Instr.init = .init ↔ s.initialised = false)) := by decide
theorem witness_InitLeavesTheTable : Live State.reset ∧ State.reset.issuer = .thread ∧ State.reset.initialised = false ∧
    0 < State.reset.maxLeds ∧ 3 < State.reset.maxLeds ∧ 47 < State.reset.cfg.scratchLen := by decide
/-- The boundary `MAX_LEDS = 1`: `led_off` 1 and the second scratch half 0, for an index in each half. -/
theorem witness_InitLeavesTheTable_oneLed :
    let s := State.resetWith toy
    Live s ∧ s.issuer = .thread ∧ s.initialised = false ∧ s.maxLeds = 1 ∧ 23 < s.cfg.bpl ∧ ¬24 < s.cfg.bpl ∧
      24 < s.cfg.scratchLen := by decide
theorem test_init_oneLed : runs (exec .init (State.resetWith toy)) (fun t => decide (t.ledOff = .val 1 ∧
    t.scratch.map Prod.snd = List.replicate 24 1 ++ List.replicate 24 0)) = true := by decide +kernel
theorem witness_OutModeIsChosenByInitOnly : (∃ t, exec .init State.reset = .next t) ∧
    (∃ t, exec .arm insideArm = .next t ∧ Instr.arm ≠ .init) :=
  ⟨⟨_, next_of_runs State.reset test_init⟩, ⟨_, next_of_runs insideArm test_arm, by decide⟩⟩
theorem witness_RefreshHoldsWhileBusy : Ready (inFlight 0 0) ∧ (inFlight 0 0).busy = true := by decide +kernel
theorem witness_RefreshArmsTheFrame : Ready atRest ∧ atRest.busy = false ∧ atRest.active = .val .b1 ∧
    BufferFull atRest BufId.b1.other := by decide

/-- The state after a refresh of the toy block at rest, and the same block at rest once more. -/
def refreshed : State := atRest.after (exec (.refresh 1) atRest)
def restAgain : State := { atRest with buf0 := refreshed.buf0, buf1 := refreshed.buf1, active := .val .b0 }
theorem witness_RepeatedRefreshSendsTheSameFrame : Ready atRest ∧ atRest.busy = false ∧
    exec (.refresh 1) atRest = .next refreshed ∧ refreshed.active = .val .b0 ∧ restAgain.active = .val .b0 ∧
    restAgain.cfg = refreshed.cfg ∧ restAgain.buf0 = refreshed.buf0 ∧ restAgain.buf1 = refreshed.buf1 ∧
    restAgain.busy = false ∧ exec (.refresh 1) restAgain = .next (restAgain.after (exec (.refresh 1) restAgain)) ∧
    (restAgain.after (exec (.refresh 1) restAgain)).active = .val .b1 :=
  ⟨by decide, rfl, next_of_runs atRest (p := fun _ => true) (by decide +kernel), by decide +kernel, rfl, by decide +kernel,
    rfl, rfl, rfl, next_of_runs restAgain (p := fun _ => true) (by decide +kernel), by decide +kernel⟩

/-- Inside `refresh`, the half at 0 with an LED left; inside a service, the half at 0 and the half at `BPL` with none
left; an entry never written. -/
theorem witness_FillHalfWritesOneHalf :
    (Live insideFill ∧ fillEnabled insideFill = true ∧ CanFill insideFill .b1 0 1 0) ∧
    (let s := (irq (inFlight 0 24)).acknowledged .halfTransfer 0
     Live s ∧ fillEnabled s = true ∧ CanFill s .b1 1 1 0) ∧
    (Live insideDisarm ∧ fillEnabled insideDisarm = true ∧ CanFill insideDisarm .b1 1 1 24) ∧
    (let s := { insideFill with buf1 := [] }
     Live s ∧ fillEnabled s = true ∧ s.active = .val .b1 ∧ s.ledOff = .val 0 ∧ s.nCur = .val 1 ∧ s.wrPos = .val 0 ∧
       0 < s.maxLeds ∧ (s.buf .b1).read 0 = none) := by decide +kernel
theorem witness_ArmStartsATransfer : Live insideArm ∧ armEnabled insideArm = true := by decide +kernel
theorem witness_DisarmEndsATransfer : Live insideDisarm ∧ disarmEnabled insideDisarm = true := by decide +kernel
/-- What the statement about `slot` asks of a state, at an index: index 0, and the last index before each flag. -/
abbrev canBeat (s : State) (idx : Nat) (v : CompareWord) : Prop :=
  Live s ∧ s.timEn = true ∧ s.dmaEn = true ∧ s.dmaIdx = .val idx ∧ idx < s.cfg.scratchLen ∧ s.scratch.read idx = some v
theorem witness_SlotTakesOneBeat : canBeat (inFlight 0 0) 0 1 ∧ canBeat (inFlight 0 23) 23 3 ∧
    canBeat (inFlight 1 47) 47 0 ∧ (canBeat (inFlight 0 47) 47 0 ∧ (inFlight 0 47).htFlag = true) := by decide +kernel
theorem witness_HalfTransferServiceRefills : let s := irq (inFlight 0 24)
    Live s ∧ s.issuer = .interrupt ∧ s.htFlag = true ∧ s.pos = .val 0 ∧ CanFill s .b1 1 1 0 := by decide +kernel
/-- `pos + BPL = 48`: short of a total of 49, and at a total of 48. -/
theorem witness_CompleteServiceRefillsOrDisarms :
    (let s := irq { inFlight 1 48 with total := .val 49 }
     Live s ∧ s.issuer = .interrupt ∧ s.tcFlag = true ∧ s.pos = .val 24 ∧ s.total = .val 49 ∧ 24 + s.cfg.bpl < 49 ∧
       CanFill s .b1 1 1 24) ∧
    (let s := irq (inFlight 1 48)
     Live s ∧ s.issuer = .interrupt ∧ s.tcFlag = true ∧ s.pos = .val 24 ∧ s.total = .val 48 ∧
       48 ≤ 24 + s.cfg.bpl) := by decide +kernel
theorem witness_DisabledStepsChangeNothing : Live atRest ∧ atRest.timEn = false ∧ atRest.dmaEn = false ∧
    atRest.htFlag = false ∧ atRest.tcFlag = false ∧ fillEnabled atRest = false ∧ armEnabled atRest = false ∧
    disarmEnabled atRest = false ∧ atRest.issuer = .thread ∧ (irq atRest).issuer = .interrupt := by decide
theorem witness_TickCountsAndRequests :
    (let s := { inFlight 0 1 with cnt := .val 3 }
     Live s ∧ s.timEn = true ∧ s.cnt = .val 3 ∧ s.arr = .val 4 ∧ s.ccr = .val 1 ∧ 3 ≠ 4) ∧
    (let s := { inFlight 0 1 with cnt := .val 4, dmaEn := false }
     Live s ∧ s.timEn = true ∧ s.cnt = .val 4 ∧ s.arr = .val 4 ∧ s.ccr = .val 1 ∧ s.dmaEn = false) ∧
    (let s := { inFlight 0 1 with cnt := .val 4 }
     Live s ∧ s.timEn = true ∧ s.cnt = .val 4 ∧ s.arr = .val 4 ∧ s.ccr = .val 1 ∧ s.dmaEn = true) := by decide +kernel
theorem witness_OnePeriodOfTicksIsOneSlot : Live (inFlight 0 1) ∧ (inFlight 0 1).timEn = true ∧
    (inFlight 0 1).dmaEn = true ∧ (inFlight 0 1).cnt = .val 0 ∧ (inFlight 0 1).arr = .val 4 ∧
    (inFlight 0 1).ccr = .val 1 := by decide +kernel
theorem witness_WireIsLowWhileTheTimerIsOff : (atRest.initialised = true ∧ atRest.timEn = false) ∧
    ((inFlight 0 1).initialised = true ∧ (inFlight 0 1).timEn = true ∧ (inFlight 0 1).cnt = .val 0 ∧
      (inFlight 0 1).ccr = .val 1) := by decide +kernel
theorem witness_OutModeSaysHowTheLevelIsMade :
    ((inFlight 0 1).line = .val .high ∧ (inFlight 0 1).outMode = .pushPull ∧ (inFlight 0 1).drive = .val .high) ∧
    (let s := { inFlight 0 1 with outMode := .openDrain }
     s.line = .val .high ∧ s.outMode = .openDrain ∧ s.drive = .val .released) := by decide +kernel
/-- A step of the engine, which keeps the memories canonical and the configuration. -/
theorem witness_ConfigurationNeverChanges : ∃ t, step (inFlight 0 3) = .next t :=
  ⟨_, next_of_runs (inFlight 0 3) test_step_eager.2⟩
theorem witness_FaultIsSticky : (State.reset.cfg.valid = true ∧
      ({ State.reset with fault := some Fault.refillOverrun } : State).fault = some .refillOverrun) ∧
    exec .fillHalf { insideFill with active := .unspecified } = .fault .readUnspecified := ⟨by decide, by rfl⟩
theorem witness_BadConfigurationIsRefused :
    (State.resetWith (protocol 2000000 1250 400 800 50000).build).cfg.valid = false := by decide
theorem canonical_inFlight : MemoriesCanonical (inFlight 0 3) := by decide +kernel
theorem witness_StepKeepsTheMemoriesCanonical : MemoriesCanonical (inFlight 0 3) ∧ ∃ t, step (inFlight 0 3) = .next t :=
  ⟨canonical_inFlight, witness_ConfigurationNeverChanges⟩

/-- The three shapes of the invariant: before `init`, at rest, and in flight with 0 and with 1 service done, from the
first beat to the last one the deadline allows. -/
theorem shape_atRest : AtRest atRest .b1 1 := by decide +kernel
theorem shape_inFlight : InFlight (inFlight 0 0) .b1 1 0 ∧ InFlight (inFlight 0 47) .b1 1 0 ∧
    InFlight (inFlight 1 24) .b1 1 1 ∧ InFlight (inFlight 1 71) .b1 1 1 :=
  ⟨by decide +kernel, by decide +kernel, by decide +kernel, by decide +kernel⟩
theorem inv_atRest : Inv atRest :=
  ⟨by decide, rfl, by decide +kernel, .inr (.inl ⟨.b1, 1, shape_atRest⟩)⟩
theorem inv_inFlight : Inv (inFlight 0 3) :=
  ⟨by decide, rfl, canonical_inFlight, .inr (.inr ⟨.b1, 1, 0, by decide +kernel⟩)⟩
theorem inv_overdue : Inv (inFlight 0 47) :=
  ⟨by decide, rfl, by decide +kernel, .inr (.inr ⟨.b1, 1, 0, shape_inFlight.2.1⟩)⟩
theorem inv_pending : Inv (inFlight 0 24) :=
  ⟨by decide, rfl, by decide +kernel, .inr (.inr ⟨.b1, 1, 0, by decide +kernel⟩)⟩
theorem inv_last : Inv (inFlight 1 48) :=
  ⟨by decide, rfl, by decide +kernel, .inr (.inr ⟨.b1, 1, 1, by decide +kernel⟩)⟩
theorem inv_unstarted : Inv (inFlight 0 0) :=
  ⟨by decide, rfl, by decide +kernel, .inr (.inr ⟨.b1, 1, 0, shape_inFlight.1⟩)⟩
theorem witness_StepKeepsTheStreamingInvariant : Inv (inFlight 0 3) ∧ ∃ t, step (inFlight 0 3) = .next t :=
  ⟨inv_inFlight, witness_ConfigurationNeverChanges⟩
theorem inv_irq {s : State} (h : Inv s) : Inv (irq s) := h
/-- A run's states, before `init` and after it; `prefill` at rest; and the last two services of a frame. -/
theorem witness_InnerProceduresAreCalledOnly :
    (Inv (inFlight 0 3) ∧ Instr.disarm.isInnerProcedure = true) ∧
    (Ready atRest ∧ atRest.busy = false ∧ ∃ m u, fillHalf (atRest.startCursor 1) = .ok m ∧ fillHalf m = .ok u) ∧
    (InFlight (irq (inFlight 1 48)) .b1 1 1 ∧ (irq (inFlight 1 48)).issuer = .interrupt) :=
  ⟨⟨inv_inFlight, rfl⟩, ⟨ready_atRest, rfl, _, _, rfl, rfl⟩, by decide +kernel, rfl⟩
theorem witness_ResetMeetsTheStreamingInvariant : Config.refB.valid = true := by decide
theorem witness_InvariantGivesTheRules : Inv (inFlight 0 24) ∧ (inFlight 0 24).initialised = true ∧
    (inFlight 0 24).busy = true ∧ (inFlight 0 24).htFlag = true ∧ Inv (inFlight 1 48) ∧ (inFlight 1 48).tcFlag = true ∧
    Inv atRest ∧ atRest.initialised = true ∧ atRest.fsm = .idle :=
  ⟨inv_pending, rfl, rfl, by decide +kernel, inv_last, by decide +kernel, inv_atRest, rfl, rfl⟩
/-- One step of each of the four transitions. -/
theorem witness_StateMachineMovesOnlyAsTabled :
    (Inv atRest ∧ ∃ t, exec (.refresh 1) atRest = .next t) ∧ (Inv (inFlight 0 0) ∧ ∃ t, exec .slot (inFlight 0 0) = .next t) ∧
    (Inv (irq (inFlight 0 24)) ∧ ∃ t, exec .onHalfTransfer (irq (inFlight 0 24)) = .next t) ∧
    (Inv (irq (inFlight 1 48)) ∧ ∃ t, exec .onComplete (irq (inFlight 1 48)) = .next t) :=
  ⟨⟨inv_atRest, _, witness_RepeatedRefreshSendsTheSameFrame.2.2.1⟩,
    ⟨inv_unstarted, _, next_of_runs (inFlight 0 0) test_slot.1⟩,
    ⟨inv_irq inv_pending, _, next_of_runs (inFlight 0 24) test_onHalfTransfer⟩,
    ⟨inv_irq inv_last, _, next_of_runs (inFlight 1 48) test_onComplete.1⟩⟩
theorem witness_CommandsInFlightLeaveTheFrameAlone : (inFlight 0 0).initialised = true ∧ (inFlight 0 0).busy = true ∧
    (inFlight 0 0).active = .val .b1 ∧ (Instr.refresh 1).isCommand = true ∧ ∃ t, exec (.refresh 1) (inFlight 0 0) = .next t :=
  ⟨rfl, rfl, rfl, rfl, _, next_of_runs (inFlight 0 0) test_refresh_held⟩
theorem witness_ServicesAndEngineLeaveTheBuffersAlone : Instr.slot.isCommand = false ∧
    ∃ t, exec .slot (inFlight 0 0) = .next t := ⟨rfl, _, next_of_runs (inFlight 0 0) test_slot.1⟩
theorem witness_OnlyLateServiceFaults : Inv (inFlight 0 47) ∧
    exec .slot (inFlight 0 47) = .fault .refillOverrun := by
  refine ⟨inv_overdue, ?_⟩
  have h := test_slot_overrun.1
  cases e : exec .slot (inFlight 0 47) with
  | next t => rw [e] at h; cases h
  | fault r => rw [e] at h; rw [of_decide_eq_true h]
  | refused r => rw [e] at h; cases h
/-- The last beat before the deadline, and the one that would miss it. -/
theorem witness_RefillDeadlineIsExact :
    (Live (inFlight 0 47) ∧ InFlight (inFlight 0 47) .b1 1 0 ∧
      (inFlight 0 47).wire.length + 1 = (0 + 2) * (inFlight 0 47).cfg.bpl) ∧
    (Live (inFlight 0 46) ∧ InFlight (inFlight 0 46) .b1 1 0 ∧
      (inFlight 0 46).wire.length + 1 < (0 + 2) * (inFlight 0 46).cfg.bpl) :=
  ⟨⟨by decide +kernel, shape_inFlight.2.1, by decide +kernel⟩, ⟨by decide +kernel, by decide +kernel, by decide +kernel⟩⟩

/-- One transfer of the toy block, each service as soon as its flag is raised. -/
def oneTransfer : List (Context × Instr) :=
  List.replicate 24 (.thread, .slot) ++ [(.interrupt, .onHalfTransfer)] ++ List.replicate 24 (.thread, .slot)
def beforeEnd : State := (inFlight 0 0).after (runAll oneTransfer (inFlight 0 0))
theorem witness_EveryTransferSendsItsFrame : Live (inFlight 0 0) ∧ InFlight (inFlight 0 0) .b1 1 0 ∧
    (inFlight 0 0).wire = [] ∧ runAll oneTransfer (inFlight 0 0) = .next beforeEnd ∧
    beforeEnd.frames = (inFlight 0 0).frames ∧
    exec .onComplete (irq beforeEnd) = .next (beforeEnd.after (exec .onComplete (irq beforeEnd))) ∧
    (beforeEnd.after (exec .onComplete (irq beforeEnd))).frames ≠ beforeEnd.frames :=
  ⟨by decide +kernel, shape_inFlight.1, rfl, next_of_runs _ (p := fun _ => true) (by decide +kernel), by decide +kernel,
    next_of_runs _ (p := fun _ => true) (by decide +kernel), by decide +kernel⟩
/-- By `refresh` at rest, and by `init` after hardware reset. -/
theorem witness_EveryArmingStartsAFrame :
    (Inv atRest ∧ exec (.refresh 1) atRest = .next refreshed ∧ atRest.busy = false ∧ refreshed.busy = true) ∧
    (Inv State.reset ∧ ∃ t, exec .init State.reset = .next t ∧ State.reset.busy = false ∧ t.busy = true) :=
  ⟨⟨inv_atRest, witness_RepeatedRefreshSendsTheSameFrame.2.2.1, rfl, by decide +kernel⟩,
    ⟨⟨by decide, rfl, by decide, .inl (by decide)⟩, _, next_of_runs State.reset test_init, rfl, by decide +kernel⟩⟩
theorem witness_EagerScheduleCompletesTheFrame : Live (inFlight 0 0) ∧ InFlight (inFlight 0 0) .b1 1 0 ∧
    (inFlight 0 0).wire = [] ∧ (inFlight 0 0).script = [] ∧ (inFlight 0 0).held = none :=
  ⟨by decide +kernel, shape_inFlight.1, rfl, rfl, rfl⟩

/-- The placed requests of the last statements: `refresh(1)` and a word with an unassigned ordinal. -/
def refreshOne : List Byte := [0x13, 0, 0, 0, 0, 0, 0, 0]
theorem decode_refreshOne : decode .grb refreshOne = .ok (.refresh 1) := by decide
/-- APP does not wait; the request is no command; a service issues it. -/
theorem witness_StepRunsTheDecodedRequest :
    (let s := { atRest with script := [⟨.thread, .word refreshOne⟩] }
     requested s.cfg.params.order (.word refreshOne) = .ok (.refresh 1) ∧ (Instr.refresh 1).wf s.cfg.params = true ∧ s.held = none) ∧
    (let s := { atRest with script := [⟨.thread, .word [4, 0, 0, 0, 0, 0, 0, 0]⟩], held := some 1 }
     requested s.cfg.params.order (.word [4, 0, 0, 0, 0, 0, 0, 0]) = .ok .slot ∧ Instr.slot.wf s.cfg.params = true ∧
       Instr.slot.isCommand = false) ∧
    (let s := { atRest with script := [⟨.interrupt, .call (.refresh 1)⟩], held := some 1 }
     requested s.cfg.params.order (.call (.refresh 1)) = .ok (.refresh 1) ∧
       (Instr.refresh 1).wf s.cfg.params = true) := by decide
theorem witness_FetchWordIsRunNext : (let c := Config.builtFor atRest.cfg 64
     decode c.params.order (tableBytes 64 0x13) = .ok (.refresh 1) ∧ (Instr.refresh 1).wf c.params = true) ∧
    (let c := Config.builtFor atRest.cfg 32
     decode c.params.order (tableBytes 32 0) = .ok (.ledwordGrbw32 0 0 0 0) ∧
       (Instr.ledwordGrbw32 0 0 0 0).wf c.params = true) := by decide
theorem witness_StepRefusesWhatIsNoRequest : (Live { atRest with script := [⟨.thread, .word [2]⟩] } ∧
      requested toy.params.order (.word [2]) = .error .notASerialBit) ∧
    (requested toy.params.order (.word [1, 0, 0, 0, 0, 0x40, 0, 0]) = .ok (.setLed 0 ⟨0, 0, 0, 4⟩) ∧
      (Instr.setLed 0 ⟨0, 0, 0, 4⟩).wf toy.params = false) ∧
    (requested toy.params.order (.word [0, 0, 0, 0]) = .ok (.ledwordGrbw32 0 0 0 0) ∧
      (Instr.ledwordGrbw32 0 0 0 0).wf toy.params = false) := by decide
/-- No request left: each case of the schedule. -/
theorem witness_StepFollowsTheEagerSchedule :
    (Live (inFlight 0 24) ∧ (inFlight 0 24).script = [] ∧ (inFlight 0 24).htFlag = true) ∧
    (Live (inFlight 1 48) ∧ (inFlight 1 48).htFlag = false ∧ (inFlight 1 48).tcFlag = true) ∧
    (let s := { atRest with held := some 1 }
     Live s ∧ s.htFlag = false ∧ s.tcFlag = false ∧ s.held = some 1 ∧ s.busy = false) ∧
    (let s := { inFlight 0 3 with held := some 1 }
     Live s ∧ s.htFlag = false ∧ s.tcFlag = false ∧ s.busy = true ∧ s.timEn = true ∧ s.dmaEn = true) ∧
    (atRest.held = none ∧ atRest.timEn = false) := by decide +kernel
/-- A request left, but a command of a thread that waits. -/
theorem witness_StepFollowsTheEagerSchedule_blocked :
    let s := { inFlight 0 3 with script := [⟨.thread, .word refreshOne⟩], held := some 1 }
    Live s ∧ ∃ r rest i, s.script = r :: rest ∧ requested s.cfg.params.order r.operation = .ok i ∧
      i.wf s.cfg.params = true ∧ i.isCommand = true ∧ r.issuer = .thread ∧ s.held ≠ none :=
  ⟨by decide +kernel, _, _, _, rfl, decode_refreshOne, by decide, rfl, rfl, by decide +kernel⟩

end Sys2Proof.Tests
end

section
/-! PROOFS. The family of `00_scope.md`: a step runs the request it decodes, and no step changes the configuration. -/

namespace Sys2Proof.Machine

section Configuration
/-! The configuration is fixed by the build (R6; log 5): each shared operation keeps it, so each instruction
does, so each step does. -/

variable {s t : State}

theorem fillHalf_keeps_cfg (h : fillHalf s = .ok t) : t.cfg = s.cfg := by rw [fillHalf_frame h]

theorem beat_keeps_cfg (h : beat s = .ok t) : t.cfg = s.cfg := by rw [beat_frame h]

theorem serveHalfTransfer_keeps_cfg (h : serveHalfTransfer s = .ok t) : t.cfg = s.cfg := by
  obtain ⟨p, -, h⟩ := serveHalfTransfer_eq_ok.1 h
  simpa using fillHalf_keeps_cfg h

theorem serveComplete_keeps_cfg (h : serveComplete s = .ok t) : t.cfg = s.cfg := by
  obtain ⟨p, total, -, -, ⟨-, h⟩ | ⟨-, rfl⟩⟩ := serveComplete_eq_ok.1 h
  · simpa using fillHalf_keeps_cfg h
  · simp

theorem fillAll_keeps_cfg {color : Color} {count : Nat} (h : fillAll color count s = .ok t) : t.cfg = s.cfg := by
  obtain ⟨a, -, rfl⟩ := fillAll_eq_ok.1 h
  simp

theorem refreshNow_keeps_cfg {nLeds : Nat} (h : refreshNow nLeds s = .ok t) : t.cfg = s.cfg := by
  obtain ⟨a, -, -, -, -, -, hframe⟩ := refreshNow_cases h
  rw [hframe]

theorem answer_keeps_cfg {run : List CompareWord} (h : answer run s = .next t) : t.cfg = s.cfg := by
  rw [(answer_eq_next h).2]

/-- No instruction writes the configuration (R6): its parts each keep it, and so does the disabled case (log 15). -/
theorem exec_keeps_cfg {i : Instr} (h : exec i s = .next t) : t.cfg = s.cfg := by
  cases i with
  | init =>
    obtain ⟨-, -, -, u, hfill, hrefresh⟩ := exec_init_next h
    calc t.cfg = u.cfg := refreshNow_keeps_cfg hrefresh
      _ = s.initHardware.cfg := fillAll_keeps_cfg hfill
      _ = s.cfg := rfl
  | setLed index color =>
    obtain ⟨-, ⟨-, rfl⟩ | ⟨a, -, -, rfl⟩⟩ := exec_setLed_next h
    · rfl
    · simp
  | setAllLeds color count refreshFlag =>
    obtain ⟨-, a, f, -, rfl, rfl⟩ := exec_setAllLeds_next h
    cases refreshFlag <;> simp
  | refresh nLeds =>
    obtain ⟨-, ⟨-, rfl⟩ | ⟨-, h⟩⟩ := exec_refresh_next h
    · rfl
    · simpa using refreshNow_keeps_cfg h
  | slot =>
    obtain ⟨-, ⟨-, -, h⟩ | ⟨-, rfl⟩⟩ := exec_slot_next h
    · exact beat_keeps_cfg h
    · rfl
  | onHalfTransfer =>
    obtain ⟨-, ⟨-, -, h⟩ | ⟨-, rfl⟩⟩ := exec_onHalfTransfer_next h
    · exact serveHalfTransfer_keeps_cfg h
    · rfl
  | onComplete =>
    obtain ⟨-, ⟨-, -, h⟩ | ⟨-, rfl⟩⟩ := exec_onComplete_next h
    · exact serveComplete_keeps_cfg h
    · rfl
  | tick =>
    obtain ⟨-, ⟨-, rfl⟩ | ⟨-, cnt, arr, ccr, lv, -, -, -, -, hcount⟩⟩ := exec_tick_next h
    · rfl
    · obtain ⟨-, rfl⟩ | ⟨-, -, rfl⟩ | ⟨-, -, h⟩ := hcount
      · rfl
      · rfl
      · simpa using beat_keeps_cfg h
  | fillHalf =>
    obtain ⟨-, ⟨-, h⟩ | ⟨-, rfl⟩⟩ := exec_fillHalf_next h
    · exact fillHalf_keeps_cfg h
    · rfl
  | arm => obtain ⟨-, ⟨-, rfl⟩ | ⟨-, rfl⟩⟩ := exec_arm_next h <;> rfl
  | disarm => obtain ⟨-, ⟨-, rfl⟩ | ⟨-, rfl⟩⟩ := exec_disarm_next h <;> rfl
  | encode | ledwordGrb24 | ledwordRgb24 | ledwordGrbw32 | ledwordRgbw32 | symBit0 | symBit1 | symPause =>
    exact answer_keeps_cfg h

/-- The schedule picks an operation and its context; it leaves the configuration as it is. -/
theorem nextAction_keeps_cfg {i : Instr} {s' : State} (h : nextAction s = .run i s') : s'.cfg = s.cfg := by
  obtain ⟨r, rest, -, -, -, rfl⟩ | h := nextAction_cases h
  · rfl
  · obtain ⟨-, rfl⟩ | ⟨-, rfl⟩ | ⟨-, rfl⟩ | ⟨n, -, -, rfl⟩ := eagerAction_cases h <;> rfl

theorem step_keeps_cfg (h : step s = .next t) : t.cfg = s.cfg := by
  obtain ⟨i, s', hact, hexec⟩ | ⟨-, -, -, rfl⟩ := step_eq_next h
  · exact (exec_keeps_cfg hexec).trans (nextAction_keeps_cfg hact)
  · rfl

end Configuration

section Request
/-! When a wait of APP blocks a request (R70), and what a step is once its action is known. -/

variable {s : State}

theorem appBlocked_eq_false {issuer : Context} {i : Instr} :
    appBlocked s issuer i = false ↔ s.held = none ∨ i.isCommand = false ∨ issuer = .interrupt := by
  cases hh : s.held <;> cases hc : i.isCommand <;> cases issuer <;> simp [appBlocked, hh, hc]

theorem step_of_run {i : Instr} {s' : State} (h : nextAction s = .run i s') : step s = exec i s' := by
  simp [step, h]

end Request

/-- Settles O41: a case analysis over what a step and each instruction can do; the prescaler register has the one
value 0 by its type (R32). -/
theorem configurationNeverChanges : Obligations.ConfigurationNeverChanges := by
  unfold Obligations.ConfigurationNeverChanges
  exact fun s t h => ⟨step_keeps_cfg h, Subsingleton.elim t.psc 0⟩

/-- Settles O57: the request's operation is the next action, because no wait of APP blocks it (R70). -/
theorem stepRunsTheDecodedRequest : Obligations.StepRunsTheDecodedRequest := by
  unfold Obligations.StepRunsTheDecodedRequest
  intro s r rest i hscript hdecode hwf hfree
  exact step_of_run (nextAction_of_request hscript hdecode hwf (appBlocked_eq_false.2 hfree))

end Sys2Proof.Machine
end

section
/-! PROOFS. The family of `10_state.md`, its first part: the sticky fault, hardware reset, and the buffers no service
touches. -/

namespace Sys2Proof.Machine

section StickyFault
/-! A recorded fault enables no step (R45, R255; log 18): every operation passes `live` first, and the schedule
clears no fault. -/

variable {s : State}

theorem exec_of_fault {r : Fault} (hv : s.cfg.valid = true) (hf : s.fault = some r) (i : Instr) :
    exec i s = .fault r := by
  cases i <;> exact live_of_fault hv hf

theorem nextAction_keeps_fault {i : Instr} {s' : State} (h : nextAction s = .run i s') : s'.fault = s.fault := by
  obtain ⟨r, rest, -, -, -, rfl⟩ | h := nextAction_cases h
  · rfl
  · obtain ⟨-, rfl⟩ | ⟨-, rfl⟩ | ⟨-, rfl⟩ | ⟨n, -, -, rfl⟩ := eagerAction_cases h <;> rfl

theorem step_of_fault {r : Fault} (hv : s.cfg.valid = true) (hf : s.fault = some r) : step s = .fault r := by
  unfold step
  split
  next i s' hact => exact exec_of_fault (nextAction_keeps_cfg hact ▸ hv) (nextAction_keeps_fault hact ▸ hf) i
  next => exact live_of_fault hv hf
  next => exact live_of_fault hv hf

theorem finished_of_fault {r : Fault} (hf : s.fault = some r) : s.finished = false := by
  simp [State.finished, hf]

end StickyFault

/-- Settles O42: every operation and every step passes `live`, which answers a recorded fault again; `State.after`
writes the fault alone. -/
theorem faultIsSticky : Obligations.FaultIsSticky := by
  unfold Obligations.FaultIsSticky
  intro s i r hv
  refine ⟨fun hf => ⟨exec_of_fault hv hf i, step_of_fault hv hf, finished_of_fault hf⟩, fun h => ?_⟩
  rw [h]
  exact ⟨rfl, rfl⟩

/-- Settles O47: hardware reset is a state before `init`, with empty memories. -/
theorem resetMeetsTheStreamingInvariant : Obligations.ResetMeetsTheStreamingInvariant := by
  unfold Obligations.ResetMeetsTheStreamingInvariant
  intro c hv
  have hmem : MemoriesCanonical (State.resetWith c) := ⟨rfl, rfl, rfl, rfl, rfl, rfl⟩
  have hquiet : BeforeInit (State.resetWith c) := ⟨rfl, rfl, rfl, rfl, rfl, rfl, rfl⟩
  exact ⟨hv, rfl, hmem, .inl hquiet⟩

section Buffers
/-! What only commands write (R51, R63): both LED buffers, `active` and `initialised`. -/

variable {s t : State}

/-- `t` has the LED buffers, the choice of buffer and the `init` mark of `s`. -/
abbrev SameBuffers (s t : State) : Prop :=
  t.buf0 = s.buf0 ∧ t.buf1 = s.buf1 ∧ t.active = s.active ∧ t.initialised = s.initialised

theorem SameBuffers.refl (s : State) : SameBuffers s s := ⟨rfl, rfl, rfl, rfl⟩

theorem fillHalf_sameBuffers (h : fillHalf s = .ok t) : SameBuffers s t := by
  rw [fillHalf_frame h]
  exact SameBuffers.refl s

theorem beat_sameBuffers (h : beat s = .ok t) : SameBuffers s t := by
  rw [beat_frame h]
  exact SameBuffers.refl s

theorem serveHalfTransfer_sameBuffers (h : serveHalfTransfer s = .ok t) : SameBuffers s t := by
  obtain ⟨p, -, h⟩ := serveHalfTransfer_eq_ok.1 h
  simpa [SameBuffers] using fillHalf_sameBuffers h

theorem serveComplete_sameBuffers (h : serveComplete s = .ok t) : SameBuffers s t := by
  obtain ⟨p, total, -, -, ⟨-, h⟩ | ⟨-, rfl⟩⟩ := serveComplete_eq_ok.1 h
  · simpa [SameBuffers] using fillHalf_sameBuffers h
  · simp [SameBuffers]

theorem answer_sameBuffers {run : List CompareWord} (h : answer run s = .next t) : SameBuffers s t := by
  rw [(answer_eq_next h).2]
  exact SameBuffers.refl s

theorem exec_sameBuffers {i : Instr} (hc : i.isCommand = false) (h : exec i s = .next t) : SameBuffers s t := by
  cases i with
  | init | setLed | setAllLeds | refresh => cases hc
  | slot =>
    obtain ⟨-, ⟨-, -, h⟩ | ⟨-, rfl⟩⟩ := exec_slot_next h
    · exact beat_sameBuffers h
    · exact SameBuffers.refl _
  | onHalfTransfer =>
    obtain ⟨-, ⟨-, -, h⟩ | ⟨-, rfl⟩⟩ := exec_onHalfTransfer_next h
    · exact serveHalfTransfer_sameBuffers h
    · exact SameBuffers.refl _
  | onComplete =>
    obtain ⟨-, ⟨-, -, h⟩ | ⟨-, rfl⟩⟩ := exec_onComplete_next h
    · exact serveComplete_sameBuffers h
    · exact SameBuffers.refl _
  | tick =>
    obtain ⟨-, ⟨-, rfl⟩ | ⟨-, cnt, arr, ccr, lv, -, -, -, -, hcount⟩⟩ := exec_tick_next h
    · exact SameBuffers.refl _
    · obtain ⟨-, rfl⟩ | ⟨-, -, rfl⟩ | ⟨-, -, h⟩ := hcount
      · exact SameBuffers.refl s
      · exact SameBuffers.refl s
      · have hbeat := beat_sameBuffers h
        exact hbeat
  | fillHalf =>
    obtain ⟨-, ⟨-, h⟩ | ⟨-, rfl⟩⟩ := exec_fillHalf_next h
    · exact fillHalf_sameBuffers h
    · exact SameBuffers.refl _
  | arm => obtain ⟨-, ⟨-, rfl⟩ | ⟨-, rfl⟩⟩ := exec_arm_next h <;> exact ⟨rfl, rfl, rfl, rfl⟩
  | disarm => obtain ⟨-, ⟨-, rfl⟩ | ⟨-, rfl⟩⟩ := exec_disarm_next h <;> exact ⟨rfl, rfl, rfl, rfl⟩
  | encode | ledwordGrb24 | ledwordRgb24 | ledwordGrbw32 | ledwordRgbw32 | symBit0 | symBit1 | symPause =>
    exact answer_sameBuffers h

end Buffers

/-- Settles O51: each part of an instruction that is no command keeps the buffers. -/
theorem servicesAndEngineLeaveTheBuffersAlone : Obligations.ServicesAndEngineLeaveTheBuffersAlone := by
  unfold Obligations.ServicesAndEngineLeaveTheBuffersAlone
  exact fun s t i hc h => exec_sameBuffers hc h

end Sys2Proof.Machine
end

section
/-! PROOFS. Every step keeps the configuration and the memories in order (R6, R45, R60 to R62): no fault recorded, and
each memory canonical and inside its index range. -/

namespace Sys2Proof.Machine

variable {s t : State}

/-- The part of `Inv` that does not depend on the phase of the block. -/
abbrev Sound (s : State) : Prop := Live s ∧ MemoriesCanonical s

theorem setBuf_writeRun_sound {b : BufId} {base : Nat} {colors : List Color} (hs : Sound s)
    (hlen : base + colors.length ≤ s.maxLeds) : Sound (s.setBuf b ((s.buf b).writeRun base colors)) := by
  obtain ⟨hlive, hwf0, hwf1, hwfs, hin0, hin1, hins⟩ := hs
  cases b
  · exact ⟨hlive, Memory.wf_writeRun _ hwf0 _, hwf1, hwfs, Memory.within_writeRun _ hin0 hlen, hin1, hins⟩
  · exact ⟨hlive, hwf0, Memory.wf_writeRun _ hwf1 _, hwfs, hin0, Memory.within_writeRun _ hin1 hlen, hins⟩

theorem fillHalf_sound (h : fillHalf s = .ok t) (hs : Sound s) : Sound t := by
  obtain ⟨hlive, hwf0, hwf1, hwfs, hin0, hin1, hins⟩ := hs
  obtain ⟨hwf, hin⟩ := fillHalf_keeps_scratch h hwfs hins
  rw [fillHalf_frame h]
  exact ⟨hlive, hwf0, hwf1, hwf, hin0, hin1, hin⟩

theorem beat_sound (h : beat s = .ok t) (hs : Sound s) : Sound t := by
  rw [beat_frame h]
  exact hs

theorem acknowledged_sound (src : IrqSource) (p : Nat) (hs : Sound s) : Sound (s.acknowledged src p) := by
  cases src <;> exact hs

theorem serveHalfTransfer_sound (h : serveHalfTransfer s = .ok t) (hs : Sound s) : Sound t := by
  obtain ⟨p, -, h⟩ := serveHalfTransfer_eq_ok.1 h
  exact fillHalf_sound h (acknowledged_sound _ p hs)

theorem serveComplete_sound (h : serveComplete s = .ok t) (hs : Sound s) : Sound t := by
  obtain ⟨p, total, -, -, ⟨-, h⟩ | ⟨-, rfl⟩⟩ := serveComplete_eq_ok.1 h
  · exact fillHalf_sound h (acknowledged_sound _ p hs)
  · exact acknowledged_sound _ p hs

theorem fillAll_sound {color : Color} {count : Nat} (h : fillAll color count s = .ok t) (hs : Sound s) : Sound t := by
  obtain ⟨a, -, rfl⟩ := fillAll_eq_ok.1 h
  exact setBuf_writeRun_sound hs (by simp)

theorem copyForward_sound (h : copyForward s = .ok t) (hs : Sound s) : Sound t := by
  obtain ⟨a, colors, -, hlen, -, rfl⟩ := copyForward_eq_ok.1 h
  exact setBuf_writeRun_sound hs (by omega)

theorem refreshNow_sound {n : Nat} (h : refreshNow n s = .ok t) (hs : Sound s) : Sound t := by
  obtain ⟨a, copied, filled, -, hcopy, hprefill, rfl⟩ := refreshNow_eq_ok.1 h
  obtain ⟨half, h1, h2⟩ := prefill_eq_ok.1 hprefill
  have hcopied : Sound copied := copyForward_sound hcopy hs
  have hhalf : Sound half := fillHalf_sound h1 hcopied
  have hfilled : Sound filled := fillHalf_sound h2 hhalf
  exact hfilled

theorem exec_sound {i : Instr} (h : exec i s = .next t) (hs : Sound s) : Sound t := by
  cases i with
  | init =>
    obtain ⟨-, -, -, u, hfill, hrefresh⟩ := exec_init_next h
    have hu : Sound u := fillAll_sound hfill hs
    exact refreshNow_sound hrefresh hu
  | setLed index color =>
    obtain ⟨-, ⟨-, rfl⟩ | ⟨a, -, hi, rfl⟩⟩ := exec_setLed_next h
    · exact hs
    · exact setBuf_writeRun_sound hs hi
  | setAllLeds color count refreshFlag =>
    obtain ⟨-, a, f, -, rfl, rfl⟩ := exec_setAllLeds_next h
    have hf := setBuf_writeRun_sound (b := a.other) (base := 0)
      (colors := List.replicate (min count s.maxLeds) color) hs (by simp)
    cases refreshFlag <;> exact hf
  | refresh nLeds =>
    obtain ⟨-, ⟨-, rfl⟩ | ⟨-, h⟩⟩ := exec_refresh_next h
    · exact hs
    · exact refreshNow_sound h hs
  | slot =>
    obtain ⟨-, ⟨-, -, h⟩ | ⟨-, rfl⟩⟩ := exec_slot_next h
    · exact beat_sound h hs
    · exact hs
  | onHalfTransfer =>
    obtain ⟨-, ⟨-, -, h⟩ | ⟨-, rfl⟩⟩ := exec_onHalfTransfer_next h
    · exact serveHalfTransfer_sound h hs
    · exact hs
  | onComplete =>
    obtain ⟨-, ⟨-, -, h⟩ | ⟨-, rfl⟩⟩ := exec_onComplete_next h
    · exact serveComplete_sound h hs
    · exact hs
  | tick =>
    obtain ⟨-, ⟨-, rfl⟩ | ⟨-, cnt, arr, ccr, lv, -, -, -, -, hcount⟩⟩ := exec_tick_next h
    · exact hs
    · obtain ⟨-, rfl⟩ | ⟨-, -, rfl⟩ | ⟨-, -, h⟩ := hcount
      · exact hs
      · exact hs
      · exact beat_sound h hs
  | fillHalf =>
    obtain ⟨-, ⟨-, h⟩ | ⟨-, rfl⟩⟩ := exec_fillHalf_next h
    · exact fillHalf_sound h hs
    · exact hs
  | arm => obtain ⟨-, ⟨-, rfl⟩ | ⟨-, rfl⟩⟩ := exec_arm_next h <;> exact hs
  | disarm => obtain ⟨-, ⟨-, rfl⟩ | ⟨-, rfl⟩⟩ := exec_disarm_next h <;> exact hs
  | encode | ledwordGrb24 | ledwordRgb24 | ledwordGrbw32 | ledwordRgbw32 | symBit0 | symBit1 | symPause =>
    obtain ⟨-, rfl⟩ := answer_eq_next h
    exact hs

end Sys2Proof.Machine
end

section
/-! PROOFS. The arithmetic of frames and halves (R126, R194), and what `init` leaves (R52, R230). -/

namespace Sys2Proof.Machine

section FrameLength

variable (c : Config) (n : Nat)

/-- A frame is as long as its LEDs and the pause ask for (R126). -/
theorem leds_and_pause_le_frameLen : n * c.bpl + c.table.pauseMinSlots ≤ c.frameLen n := by
  have hround := Nat.lt_mul_div_succ (n * c.bpl + c.table.pauseMinSlots + c.scratchLen - 1) (scratchLen_pos c)
  unfold Config.frameLen ceilDiv
  rw [Nat.mul_succ] at hround
  omega

/-- A frame is a whole number of passes of the scratch buffer (R126). -/
theorem scratchLen_dvd_frameLen : c.scratchLen ∣ c.frameLen n := ⟨_, rfl⟩

variable {c}

/-- The pause of a valid build has at least one slot (R11), so the LEDs end before the frame does. -/
theorem leds_lt_frameLen (hv : c.valid = true) : n * c.bpl < c.frameLen n := by
  obtain ⟨-, -, -, -, -, hpause, -, -⟩ := (Config.valid_iff c).1 hv
  have := leds_and_pause_le_frameLen c n
  omega

theorem scratchLen_le_frameLen (hv : c.valid = true) : c.scratchLen ≤ c.frameLen n := by
  have hpos : 0 < c.frameLen n := Nat.zero_lt_of_lt (leds_lt_frameLen n hv)
  exact Nat.le_of_dvd hpos (scratchLen_dvd_frameLen c n)

end FrameLength

section Halves
/-! Half `h` of a frame lies in the scratch half `h % 2` (R194, R198). -/

variable (c : Config) (h : Nat)

theorem half_mod_scratchLen {j : Nat} (hj : j < c.bpl) :
    (h * c.bpl + j) % c.scratchLen = h % 2 * c.bpl + j := by
  have hsplit : h * c.bpl + j = c.scratchLen * (h / 2) + (h % 2 * c.bpl + j) := by
    rw [scratchLen_eq]
    nth_rw 1 [← Nat.div_add_mod h 2]
    ring
  have hlt : h % 2 * c.bpl + j < c.scratchLen := by
    rw [scratchLen_eq]
    rcases Nat.mod_two_eq_zero_or_one h with he | he <;> rw [he] <;> omega
  rw [hsplit, Nat.mul_add_mod, Nat.mod_eq_of_lt hlt]

theorem half_start_mod_scratchLen : h * c.bpl % c.scratchLen = h % 2 * c.bpl :=
  half_mod_scratchLen c h (bpl_pos c)

end Halves

section Init
/-! `init` (R230): the hardware set up, the writable buffer filled with black, and the first refresh taken. -/

variable {s : State}

/-- What `init` has done before its refresh (R230, steps 1 to 4 and the fill of step 5). -/
def State.initFilled (s : State) : State :=
  s.initHardware.setBuf .b1 (s.buf1.writeRun 0 (List.replicate s.maxLeds Color.black))

theorem fillAll_initHardware : fillAll Color.black s.maxLeds s.initHardware = .ok s.initFilled := by
  refine fillAll_eq_ok.2 ⟨.b0, rfl, ?_⟩
  rw [show min s.maxLeds s.initHardware.maxLeds = s.maxLeds from Nat.min_self _]
  rfl

theorem initFilled_read (i : Nat) :
    (s.initFilled.buf .b1).read i = if i < s.maxLeds then some Color.black else s.buf1.read i := by
  show (s.buf1.writeRun 0 _).read i = _
  rw [Memory.read_writeRun]
  simp only [Nat.zero_le, true_and, Nat.zero_add, Nat.sub_zero, List.length_replicate]
  split <;> simp [*]

theorem initFilled_bufferFull : BufferFull s.initFilled .b1 := fun i hi => by
  have hi : i < s.maxLeds := hi
  simp [initFilled_read, hi]

theorem refreshNow_initFilled :
    ∃ t, refreshNow s.maxLeds s.initFilled = .ok t ∧ Refreshed s.initFilled t .b0 s.maxLeds := by
  obtain ⟨t, hrefresh, ht⟩ := refreshNow_completes (n := s.maxLeds) (a := .b0) rfl (initFilled_bufferFull (s := s))
  rw [show min s.maxLeds s.initFilled.maxLeds = s.maxLeds from Nat.min_self _] at ht
  exact ⟨t, hrefresh, ht⟩

theorem initBody_completes (s : State) : ∃ t, initBody s = .ok t ∧ Refreshed s.initFilled t .b0 s.maxLeds := by
  obtain ⟨t, hrefresh, ht⟩ := refreshNow_initFilled (s := s)
  exact ⟨t, by rw [initBody, fillAll_initHardware, ok_bind, hrefresh], ht⟩

theorem exec_init_completes (hl : Live s) (hi : s.issuer = .thread) (hr : s.initialised = false) :
    ∃ t, exec .init s = .next t ∧ Refreshed s.initFilled t .b0 s.maxLeds := by
  obtain ⟨t, hbody, ht⟩ := initBody_completes s
  refine ⟨t, (command_of_ok hl.1 hl.2 hi).trans ?_, ht⟩
  rw [hr, hbody]
  rfl

/-- Black is `BPL` bits 0 (R94). -/
theorem encodeColor_black (c : Config) : encodeColor c Color.black = List.replicate c.bpl c.table.t0h := by
  unfold encodeColor channels Config.bpl Config.nch
  cases c.params.order <;> cases c.params.hasWhite <;> rfl

/-- The frame of a black buffer: every serial bit of an LED is 0, then the pause (R94, R98). -/
theorem frameValue_black {c : Config} {m : Memory Color} {n : Nat} (hm : ∀ i, i < n → m.read i = some Color.black)
    (p : Nat) : frameValue c m n p = if p < n * c.bpl then c.table.t0h else 0 := by
  unfold frameValue
  split
  next hp =>
    have hled : p / c.bpl < n := Nat.div_lt_of_lt_mul (by rwa [Nat.mul_comm])
    have hbit : p % c.bpl < c.bpl := Nat.mod_lt _ (bpl_pos c)
    simp [ledRun, hm _ hled, encodeColor_black, hbit]
  next => rfl

/-- Which positions of the first two halves are of an LED: all of them, or the first half's when there is one LED. -/
theorem first_halves_lt_leds {c : Config} {n j : Nat} (hn : 1 ≤ n) (hj : j < c.scratchLen) :
    j < n * c.bpl ↔ j < c.bpl ∨ 2 ≤ n := by
  rw [scratchLen_eq] at hj
  obtain rfl | h2 := Nat.eq_or_lt_of_le hn
  · omega
  · have := Nat.mul_le_mul_right c.bpl h2
    omega

end Init

/-- Settles O24: `init` is its fill and a refresh that completes, so the table is what the refresh leaves of a black
buffer. -/
theorem initLeavesTheTable : Obligations.InitLeavesTheTable := by
  unfold Obligations.InitLeavesTheTable
  intro s hl hi hr
  obtain ⟨t, hexec, hb1, hb0, hsc, hframe⟩ := exec_init_completes hl hi hr
  obtain ⟨-, -, -, -, -, -, hmax, -⟩ := (Config.valid_iff s.cfg).1 hl.1
  have hread1 (i : Nat) : t.buf1.read i = if i < s.maxLeds then some Color.black else s.buf1.read i := by
    rw [← initFilled_read]
    exact congrArg (Memory.read · i) hb1
  have hread0 (i : Nat) : t.buf0.read i = if i < s.maxLeds then some Color.black else s.buf0.read i := by
    refine (hb0 i).trans (ite_congr rfl (fun hi => ?_) fun _ => rfl)
    rw [show (s.initFilled.buf BufId.b0.other).read i = _ from initFilled_read i, if_pos hi]
  have hblack (i : Nat) (hi : i < s.maxLeds) :
      t.buf0.read i = some Color.black ∧ t.buf1.read i = some Color.black := by
    rw [hread0, hread1, if_pos hi, if_pos hi]
    exact ⟨rfl, rfl⟩
  have hbeyond (i : Nat) (hi : s.maxLeds ≤ i) : t.buf0.read i = s.buf0.read i ∧ t.buf1.read i = s.buf1.read i := by
    rw [hread0, hread1, if_neg (by omega), if_neg (by omega)]
    exact ⟨rfl, rfl⟩
  have hfirst (j : Nat) (hj : j < s.cfg.scratchLen) : t.scratch.read j =
      some (if j < s.cfg.bpl ∨ 2 ≤ s.maxLeds then s.cfg.table.t0h else 0) := by
    have hled : j < s.maxLeds * s.cfg.bpl ↔ j < s.cfg.bpl ∨ 2 ≤ s.maxLeds := first_halves_lt_leds hmax hj
    have hvalue := frameValue_black (c := s.cfg) (fun i hi => (initFilled_read (s := s) i).trans (if_pos hi)) j
    simp only [hled] at hvalue
    exact ((hsc j).trans (if_pos hj)).trans (congrArg some hvalue)
  have hrest (j : Nat) (hj : s.cfg.scratchLen ≤ j) : t.scratch.read j = s.scratch.read j :=
    (hsc j).trans (if_neg (Nat.not_lt.2 hj))
  refine ⟨t, hexec, ?_⟩
  rw [hframe]
  exact ⟨hblack, rfl, hfirst, rfl, rfl, rfl, rfl, rfl, rfl, rfl, Subsingleton.elim _ _, rfl, rfl,
    rfl, rfl, rfl, rfl, rfl, rfl, rfl, rfl, hl.2, rfl, rfl, rfl, hbeyond, hrest, rfl, rfl, rfl, rfl, rfl⟩

end Sys2Proof.Machine
end

section
/-! PROOFS. What each event of a frame in flight does to it (R190 to R209): a beat keeps `InFlight` before its deadline
and faults at it, a service counts one half on or ends the frame. -/

namespace Sys2Proof.Machine

variable {s t : State} {a : BufId} {n q : Nat}

section Halves
/-! Positions, halves and the end of the frame, with `q` halves served. -/

variable {c : Config}

theorem succ_half_start (c : Config) (q : Nat) : (q + 1) * c.bpl = q * c.bpl + c.bpl := Nat.succ_mul q c.bpl

theorem succ_succ_half_start (c : Config) (q : Nat) : (q + 2) * c.bpl = q * c.bpl + c.scratchLen := by
  rw [scratchLen_eq]
  ring

/-- A read index strictly inside a half raises no flag (R198). -/
theorem mod_scratchLen_inside_half {h k : Nat} (hlo : h * c.bpl < k) (hhi : k < (h + 1) * c.bpl) :
    k % c.scratchLen ≠ c.bpl ∧ k % c.scratchLen ≠ 0 := by
  have hsucc := succ_half_start c h
  have hmod := half_mod_scratchLen c h (j := k - h * c.bpl) (by omega)
  rw [show h * c.bpl + (k - h * c.bpl) = k by omega] at hmod
  rcases Nat.mod_two_eq_zero_or_one h with he | he <;> rw [he] at hmod <;> omega

/-- A frame is an even number of halves. -/
theorem frameLen_eq_halves (c : Config) (n : Nat) : ∃ m, c.frameLen n = 2 * m * c.bpl := by
  obtain ⟨m, hm⟩ := scratchLen_dvd_frameLen c n
  exact ⟨m, by rw [hm, scratchLen_eq]; ring⟩

theorem half_le_frameLen (hlt : q * c.bpl < c.frameLen n) : (q + 1) * c.bpl ≤ c.frameLen n := by
  obtain ⟨m, hm⟩ := frameLen_eq_halves c n
  rw [hm] at hlt ⊢
  have hq : q < 2 * m := lt_of_mul_lt_mul_right hlt (Nat.zero_le _)
  exact Nat.mul_le_mul_right _ hq

/-- The first half of a pass is never the last of the frame. -/
theorem even_half_lt_frameLen (hlt : q * c.bpl < c.frameLen n) (he : q % 2 = 0) : (q + 1) * c.bpl < c.frameLen n := by
  obtain ⟨m, hm⟩ := frameLen_eq_halves c n
  rw [hm] at hlt ⊢
  have hq : q < 2 * m := lt_of_mul_lt_mul_right hlt (Nat.zero_le _)
  exact Nat.mul_lt_mul_of_pos_right (by omega) (bpl_pos c)

theorem frameValue_of_pause {m : Memory Color} {p : Nat} (hp : n * c.bpl ≤ p) : frameValue c m n p = 0 :=
  if_neg (Nat.not_lt.2 hp)

end Halves

section Beat
/-! The beat (R197): it loads the frame's next value, and raises the flag of a half it completes. -/

/-- The flags with `k` beats taken and `q` services done. -/
abbrev FlagsAt (s : State) (q k : Nat) : Prop :=
  s.htFlag = decide ((q + 1) * s.cfg.bpl ≤ k ∧ q % 2 = 0) ∧ s.tcFlag = decide ((q + 1) * s.cfg.bpl ≤ k ∧ q % 2 = 1)

/-- The beat after `k` others, before the deadline of the `q`-th service (R198, R300). -/
theorem raiseFlags_before_deadline {k : Nat} (hf : FlagsAt s q k) (hlo : q * s.cfg.bpl ≤ k)
    (hhi : k + 1 < (q + 2) * s.cfg.bpl) : ∃ t, raiseFlags ((k + 1) % s.cfg.scratchLen) s = .ok t ∧
      FlagsAt t q (k + 1) ∧ t = { s with htFlag := t.htFlag, tcFlag := t.tcFlag } := by
  obtain ⟨hht, htc⟩ := hf
  have hsucc := succ_half_start s.cfg q
  obtain hin | heq | hin := Nat.lt_trichotomy (k + 1) ((q + 1) * s.cfg.bpl)
  · obtain ⟨hne, hne0⟩ := mod_scratchLen_inside_half (h := q) (by omega) hin
    refine ⟨s, raiseFlags_eq_ok.2 (.inr (.inr ⟨hne, hne0, rfl⟩)), ⟨hht.trans ?_, htc.trans ?_⟩, rfl⟩ <;>
      exact decide_eq_decide.2 (by omega)
  · have hidx : (k + 1) % s.cfg.scratchLen = (q + 1) % 2 * s.cfg.bpl := by rw [heq, half_start_mod_scratchLen]
    have hclear : s.htFlag = false ∧ s.tcFlag = false := by
      rw [hht, htc]
      exact ⟨decide_eq_false (by omega), decide_eq_false (by omega)⟩
    rcases Nat.mod_two_eq_zero_or_one q with he | he
    · rw [show (q + 1) % 2 = 1 by omega, Nat.one_mul] at hidx
      exact ⟨_, raiseFlags_eq_ok.2 (.inl ⟨hidx, hclear.1, hclear.2, rfl⟩),
        ⟨by simp [heq, he], by simp [hclear, he]⟩, rfl⟩
    · rw [show (q + 1) % 2 = 0 by omega, Nat.zero_mul] at hidx
      have hne : (k + 1) % s.cfg.scratchLen ≠ s.cfg.bpl := hidx ▸ (bpl_pos s.cfg).ne
      exact ⟨_, raiseFlags_eq_ok.2 (.inr (.inl ⟨hne, hidx, hclear.1, hclear.2, rfl⟩)),
        ⟨by simp [hclear, he], by simp [heq, he]⟩, rfl⟩
  · obtain ⟨hne, hne0⟩ := mod_scratchLen_inside_half (h := q + 1) hin hhi
    refine ⟨s, raiseFlags_eq_ok.2 (.inr (.inr ⟨hne, hne0, rfl⟩)), ⟨hht.trans ?_, htc.trans ?_⟩, rfl⟩ <;>
      exact decide_eq_decide.2 (by omega)

/-- At the deadline the flag of the half before is still pending (R197, R300). -/
theorem raiseFlags_at_deadline {k : Nat} (hf : FlagsAt s q k) (hk : k + 1 = (q + 2) * s.cfg.bpl) :
    raiseFlags ((k + 1) % s.cfg.scratchLen) s = .error .refillOverrun ∧ (s.htFlag = true ∨ s.tcFlag = true) := by
  obtain ⟨hht, htc⟩ := hf
  have hb := bpl_pos s.cfg
  have hsucc := succ_half_start s.cfg q
  have hsucc2 : (q + 2) * s.cfg.bpl = (q + 1) * s.cfg.bpl + s.cfg.bpl := succ_half_start s.cfg (q + 1)
  have hdue : (q + 1) * s.cfg.bpl ≤ k := by omega
  have hidx : (k + 1) % s.cfg.scratchLen = q % 2 * s.cfg.bpl := by
    rw [hk, half_start_mod_scratchLen, Nat.add_mod_right]
  have hpend : s.htFlag = true ∨ s.tcFlag = true := by
    rcases Nat.mod_two_eq_zero_or_one q with he | he
    · exact .inl (by simp [hht, hdue, he])
    · exact .inr (by simp [htc, hdue, he])
  have hp : s.pending = true := by simpa [State.pending] using hpend
  refine ⟨?_, hpend⟩
  rcases Nat.mod_two_eq_zero_or_one q with he | he <;> rw [hidx, he] <;> simp [raiseFlags, raiseFlag, hp, hb.ne]

/-- The beat of a frame in flight reads the frame's next value (R80, R197). -/
theorem beat_of_inFlight (h : InFlight s a n q) : beat s =
    raiseFlags ((s.wire.length + 1) % s.cfg.scratchLen)
      (s.loaded (frameValue s.cfg (s.buf a) n s.wire.length) ((s.wire.length + 1) % s.cfg.scratchLen)) := by
  obtain ⟨-, -, -, -, -, -, -, -, -, -, -, hidx, hlo, hhi, -, -, -, hscratch, -, -⟩ := h
  rw [succ_succ_half_start] at hhi
  have hread := hscratch (s.wire.length - q * s.cfg.bpl) (by omega)
  rw [Nat.add_sub_cancel' hlo] at hread
  have hlt : s.wire.length % s.cfg.scratchLen < s.cfg.scratchLen := Nat.mod_lt _ (scratchLen_pos _)
  simp [beat, hidx, memRead_eq_ok.2 ⟨hlt, hread⟩]

theorem started_phase {k : Nat} (hlo : q * s.cfg.bpl ≤ k) : started (phase n q k) = phase n q (k + 1) := by
  have hb := bpl_pos s.cfg
  obtain rfl | hk := Nat.eq_zero_or_pos k
  · have hq : q = 0 := (Nat.mul_eq_zero.1 (Nat.le_zero.1 hlo)).resolve_right hb.ne'
    simp [phase, hq, started]
  · unfold phase
    rw [if_neg hk.ne', if_neg (Nat.succ_ne_zero k)]
    split <;> rfl

/-- A beat before its deadline keeps the frame in flight, one value further (R197, R300). -/
theorem beat_before_deadline (h : InFlight s a n q) (hk : s.wire.length + 1 < (q + 2) * s.cfg.bpl) :
    ∃ t, beat s = .ok t ∧ InFlight t a n q ∧ t.wire = s.wire ++ [frameValue s.cfg (s.buf a) n s.wire.length] := by
  have hbeat := beat_of_inFlight h
  obtain ⟨hset, hbusy, htim, hdma, hn, hncur, htotal, hpos, hlt, hled, hwr, -, hlo, -, hht, htc, hwire, hscratch,
    -, hfsm⟩ := h
  generalize hv : frameValue s.cfg (s.buf a) n s.wire.length = v at hbeat ⊢
  obtain ⟨t, hraise, ⟨hht', htc'⟩, hframe⟩ := raiseFlags_before_deadline
    (s := s.loaded v ((s.wire.length + 1) % s.cfg.scratchLen)) ⟨hht, htc⟩ hlo hk
  have hlen : (s.wire ++ [v]).length = s.wire.length + 1 := by simp
  have hwire' : s.wire ++ [v] = (List.range (s.wire.length + 1)).map (frameValue s.cfg (s.buf a) n) := by
    rw [List.range_succ, List.map_append, ← hwire, List.map_singleton, hv]
  have hfsm' : started s.fsm = phase n q (s.wire.length + 1) := by rw [hfsm, started_phase hlo]
  refine ⟨t, hbeat.trans hraise, ?_, by rw [hframe]; rfl⟩
  generalize t.htFlag = ht at hframe hht'
  generalize t.tcFlag = tc at hframe htc'
  subst hframe
  rw [← hlen] at hht' htc' hwire' hfsm' hk
  have hlast : v = (s.wire ++ [v]).getLastD 0 := by simp
  exact ⟨hset, hbusy, htim, hdma, hn, hncur, htotal, hpos, hlt, hled, hwr, by simp, Nat.le_trans hlo (by simp), hk, hht',
    htc', hwire', hscratch, congrArg Elem.val hlast, hfsm'⟩

/-- The beat at the deadline faults, with the flag of the half before pending (R197, R300). -/
theorem beat_at_deadline (h : InFlight s a n q) (hk : s.wire.length + 1 = (q + 2) * s.cfg.bpl) :
    beat s = .error .refillOverrun ∧ (s.htFlag = true ∨ s.tcFlag = true) := by
  have hbeat := beat_of_inFlight h
  obtain ⟨-, -, -, -, -, -, -, -, -, -, -, -, -, -, hht, htc, -⟩ := h
  obtain ⟨hraise, hpending⟩ := raiseFlags_at_deadline
    (s := s.loaded (frameValue s.cfg (s.buf a) n s.wire.length) ((s.wire.length + 1) % s.cfg.scratchLen)) ⟨hht, htc⟩ hk
  exact ⟨hbeat.trans hraise, hpending⟩

/-- Everything the beat of a frame in flight can do. -/
theorem beat_outcome (h : InFlight s a n q) : (∃ t, beat s = .ok t ∧ InFlight t a n q) ∨
    (beat s = .error .refillOverrun ∧ (s.htFlag = true ∨ s.tcFlag = true)) := by
  have hle : s.wire.length + 1 ≤ (q + 2) * s.cfg.bpl := by
    obtain ⟨-, -, -, -, -, -, -, -, -, -, -, -, -, hhi, -⟩ := h
    exact hhi
  rcases Nat.lt_or_eq_of_le hle with hlt | heq
  · obtain ⟨t, hbeat, ht, -⟩ := beat_before_deadline h hlt
    exact .inl ⟨t, hbeat, ht⟩
  · exact .inr (beat_at_deadline h heq)

end Beat

section Services
/-! The services (R200, R201): the half just consumed is refilled, or the frame has ended. -/

theorem InFlight.pos (h : InFlight s a n q) : s.pos = .val (q * s.cfg.bpl) := by
  obtain ⟨-, -, -, -, -, -, -, hpos, -⟩ := h
  exact hpos

theorem InFlight.total (h : InFlight s a n q) : s.total = .val (s.cfg.frameLen n) := by
  obtain ⟨-, -, -, -, -, -, htotal, -⟩ := h
  exact htotal

theorem InFlight.lt_frameLen (h : InFlight s a n q) : q * s.cfg.bpl < s.cfg.frameLen n := by
  obtain ⟨-, -, -, -, -, -, -, -, hlt, -⟩ := h
  exact hlt

theorem InFlight.even_of_htFlag (h : InFlight s a n q) (hf : s.htFlag = true) :
    (q + 1) * s.cfg.bpl ≤ s.wire.length ∧ q % 2 = 0 ∧ s.tcFlag = false := by
  obtain ⟨-, -, -, -, -, -, -, -, -, -, -, -, -, -, hht, htc, -, -, -, -⟩ := h
  obtain ⟨hdue, he⟩ := of_decide_eq_true (hht.symm.trans hf)
  exact ⟨hdue, he, htc.trans (decide_eq_false (by omega))⟩

theorem InFlight.odd_of_tcFlag (h : InFlight s a n q) (hf : s.tcFlag = true) :
    (q + 1) * s.cfg.bpl ≤ s.wire.length ∧ q % 2 = 1 ∧ s.htFlag = false := by
  obtain ⟨-, -, -, -, -, -, -, -, -, -, -, -, -, -, hht, htc, -, -, -, -⟩ := h
  obtain ⟨hdue, ho⟩ := of_decide_eq_true (htc.symm.trans hf)
  exact ⟨hdue, ho, hht.trans (decide_eq_false (by omega))⟩

/-- What the zero-fill does to the state machine is the phase of one service more (R191, R193). -/
theorem phase_refilled {k : Nat} (hk : k ≠ 0) :
    (if n ≤ min n (q + 2) ∧ phase n q k = .streaming then .draining else phase n q k) = phase n (q + 1) k := by
  by_cases hlast : n ≤ q + 2
  · have hnew : phase n (q + 1) k = .draining := by rw [phase, if_neg hk, if_neg (by omega)]
    have hold : phase n q k = .streaming ∨ phase n q k = .draining := by
      simp only [phase, if_neg hk]
      split <;> simp
    rw [hnew, Nat.min_eq_left hlast]
    rcases hold with he | he <;> simp [he]
  · rw [if_neg (by omega)]
    simp only [phase, if_neg hk, if_pos (show q = 0 ∨ q + 1 < n by omega),
      if_pos (show q + 1 = 0 ∨ q + 1 + 1 < n by omega)]

/-- A frame in flight with the `q`-th half acknowledged: no flag is pending, and `pos` is past it (R200, R201). -/
def State.consumed (s : State) (q : Nat) : State :=
  { s with htFlag := false, tcFlag := false, pos := .val ((q + 1) * s.cfg.bpl) }

theorem acknowledged_half_eq (htc : s.tcFlag = false) :
    s.acknowledged .halfTransfer (q * s.cfg.bpl) = s.consumed q := by
  simp [State.acknowledged, State.enterService, State.consumed, htc, succ_half_start]

theorem acknowledged_complete_eq (hht : s.htFlag = false) :
    s.acknowledged .transferComplete (q * s.cfg.bpl) = s.consumed q := by
  simp [State.acknowledged, State.enterService, State.consumed, hht, succ_half_start]

/-- The LED a refill takes is the one of half `q + 2`, or none is left (R193, R206). -/
theorem fillValue_min (s : State) (a : BufId) (n h j : Nat) : fillValue s a (min n h) n j = fillValue s a h n j := by
  unfold fillValue
  by_cases hh : h < n
  · rw [Nat.min_eq_right hh.le]
  · rw [if_neg hh, if_neg (by omega)]

/-- A refill of the half at `q % 2` leaves the scratch buffer one half further in the frame (R194, R206). -/
theorem scratch_refilled {m m' : Memory CompareWord} {f : Nat → CompareWord} {c : Config}
    (hold : ∀ x, x < c.scratchLen → m.read ((q * c.bpl + x) % c.scratchLen) = some (f (q * c.bpl + x)))
    (hnew : ∀ i, m'.read i = if q % 2 * c.bpl ≤ i ∧ i < q % 2 * c.bpl + c.bpl
      then some (f ((q + 2) * c.bpl + (i - q % 2 * c.bpl))) else m.read i)
    (x : Nat) (hx : x < c.scratchLen) :
    m'.read (((q + 1) * c.bpl + x) % c.scratchLen) = some (f ((q + 1) * c.bpl + x)) := by
  have hsucc := succ_half_start c q
  have hsucc2 := succ_succ_half_start c q
  have hlen := scratchLen_eq c
  rcases Nat.lt_or_ge x c.bpl with hlt | hge
  · have hout : ¬(q % 2 * c.bpl ≤ ((q + 1) * c.bpl + x) % c.scratchLen ∧
        ((q + 1) * c.bpl + x) % c.scratchLen < q % 2 * c.bpl + c.bpl) := by
      rw [half_mod_scratchLen c (q + 1) hlt]
      rcases Nat.mod_two_eq_zero_or_one q with he | he
      · rw [he, show (q + 1) % 2 = 1 by omega]
        omega
      · rw [he, show (q + 1) % 2 = 0 by omega]
        omega
    rw [hnew, if_neg hout, hsucc, Nat.add_assoc]
    exact hold (c.bpl + x) (by omega)
  · have hidx : ((q + 1) * c.bpl + x) % c.scratchLen = q % 2 * c.bpl + (x - c.bpl) := by
      rw [← half_mod_scratchLen c q (j := x - c.bpl) (by omega),
        show (q + 1) * c.bpl + x = q * c.bpl + (x - c.bpl) + c.scratchLen by omega, Nat.add_mod_right]
    rw [hnew, hidx, if_pos (by omega)]
    exact congrArg (some <| f ·) (by omega)

/-- The refill of a service leaves the frame in flight with one service more (R193, R200, R201). -/
theorem refill_inFlight (h : InFlight s a n q) (hdue : (q + 1) * s.cfg.bpl ≤ s.wire.length)
    (hmore : (q + 1) * s.cfg.bpl < s.cfg.frameLen n) :
    ∃ t, fillHalf (s.consumed q) = .ok t ∧ InFlight t a n (q + 1) := by
  obtain ⟨hset, hbusy, htim, hdma, hn, hncur, htotal, -, -, hled, hwr, hidx, -, hhi, -, -, hwire, hscratch, hccr,
    hfsm⟩ := h
  have ⟨_, hact, hfull0, hfull1, _⟩ := hset
  have hfull : BufferFull s a := by cases a <;> assumption
  have hb := bpl_pos s.cfg
  have hsucc := succ_half_start s.cfg q
  have hsucc2 : (q + 1 + 1) * s.cfg.bpl = (q + 1) * s.cfg.bpl + s.cfg.bpl := succ_half_start s.cfg (q + 1)
  have hhalf : q % 2 * s.cfg.bpl = 0 ∨ q % 2 * s.cfg.bpl = s.cfg.bpl := by
    rcases Nat.mod_two_eq_zero_or_one q with he | he <;> simp [he]
  have hcan : CanFill (s.consumed q) a (min n (q + 2)) n (q % 2 * s.cfg.bpl) :=
    ⟨hact, hled, hncur, hwr, hhalf, fun hlt => ⟨Nat.lt_of_lt_of_le hlt hn, hfull _ (Nat.lt_of_lt_of_le hlt hn)⟩⟩
  obtain ⟨t, hfill, hframe, hread⟩ := fillHalf_of_canFill hcan
  refine ⟨t, hfill, ?_⟩
  have hscratch' := scratch_refilled (m' := t.scratch) hscratch fun i => by
    refine (hread i).trans (ite_congr rfl (fun hi => ?_) fun _ => rfl)
    have hi : q % 2 * s.cfg.bpl ≤ i ∧ i < q % 2 * s.cfg.bpl + s.cfg.bpl := hi
    rw [fillValue_min, frameValue_of_half s a n (q + 2) (by omega)]
    cases a <;> rfl
  have hled' : (if min n (q + 2) < n then min n (q + 2) + 1 else min n (q + 2)) = min n (q + 1 + 2) := by
    split <;> omega
  have hwr' : (if q % 2 * s.cfg.bpl = 0 then s.cfg.bpl else 0) = (q + 1) % 2 * s.cfg.bpl := by
    rcases Nat.mod_two_eq_zero_or_one q with he | he
    · simp [he, show (q + 1) % 2 = 1 by omega]
    · simp [he, show (q + 1) % 2 = 0 by omega, hb.ne']
  have hfsm' : (if n ≤ min n (q + 2) ∧ s.fsm = .streaming then .draining else s.fsm) =
      phase n (q + 1) s.wire.length := by
    rw [hfsm]
    exact phase_refilled (by omega)
  have hearly : ¬ (q + 1 + 1) * s.cfg.bpl ≤ s.wire.length := Nat.not_le.2 hhi
  have hhi' : s.wire.length < (q + 1 + 2) * s.cfg.bpl := Nat.lt_of_lt_of_le hhi (Nat.mul_le_mul_right _ (by omega))
  generalize t.scratch = m at hframe hscratch'
  subst hframe
  exact ⟨hset, hbusy, htim, hdma, hn, hncur, htotal, rfl, hmore, congrArg Elem.val hled', congrArg Elem.val hwr', hidx,
    hdue, hhi', (decide_eq_false fun hc => hearly hc.1).symm, (decide_eq_false fun hc => hearly hc.1).symm, hwire,
    hscratch', hccr, hfsm'⟩

theorem serveHalfTransfer_inFlight (h : InFlight s a n q) (hf : s.htFlag = true) :
    ∃ t, serveHalfTransfer s = .ok t ∧ InFlight t a n (q + 1) := by
  obtain ⟨hdue, he, htc⟩ := h.even_of_htFlag hf
  obtain ⟨t, hfill, ht⟩ := refill_inFlight h hdue (even_half_lt_frameLen h.lt_frameLen he)
  rw [← acknowledged_half_eq htc] at hfill
  exact ⟨t, serveHalfTransfer_eq_ok.2 ⟨_, h.pos, hfill⟩, ht⟩

/-- Every index of the scratch buffer is some way after any position (R194). -/
theorem exists_offset (p : Nat) {size j : Nat} (hj : j < size) : ∃ x, x < size ∧ (p + x) % size = j := by
  have hpos : 0 < size := Nat.zero_lt_of_lt hj
  have hsum : p + (j + (size - p % size)) = j + size * (p / size + 1) := by
    have := Nat.div_add_mod p size
    have := Nat.mod_lt p hpos
    rw [Nat.mul_succ]
    omega
  refine ⟨(j + (size - p % size)) % size, Nat.mod_lt _ hpos, ?_⟩
  rw [Nat.add_mod_mod, hsum, Nat.add_mul_mod_self_left, Nat.mod_eq_of_lt hj]

/-- The frame ends with its last half consumed: the block is at rest (R201, R202, R207). -/
theorem disarmed_atRest (hv : s.cfg.valid = true) (h : InFlight s a n q) (hodd : q % 2 = 1)
    (hdue : (q + 1) * s.cfg.bpl ≤ s.wire.length)
    (hend : s.cfg.frameLen n ≤ (q + 1) * s.cfg.bpl) : AtRest (s.consumed q).disarmed a n := by
  obtain ⟨hset, -, -, -, hn, hncur, htotal, -, hlt, hled, hwr, hidx, -, -, -, -, hwire, hscratch, hccr, -⟩ := h
  have hb := bpl_pos s.cfg
  have hlen := scratchLen_eq s.cfg
  have hsucc := succ_half_start s.cfg q
  have htotal' : (q + 1) * s.cfg.bpl = s.cfg.frameLen n := Nat.le_antisymm (half_le_frameLen hlt) hend
  have hleds : n ≤ q := by
    have hlt' := leds_lt_frameLen n hv
    rw [← htotal'] at hlt'
    exact Nat.le_of_lt_succ (lt_of_mul_lt_mul_right hlt' (Nat.zero_le _))
  have hpause (p : Nat) (hp : q * s.cfg.bpl ≤ p) : frameValue s.cfg (s.buf a) n p = 0 :=
    frameValue_of_pause (Nat.le_trans (Nat.mul_le_mul_right _ hleds) hp)
  have hccr' : s.wire.getLastD 0 = 0 := by
    obtain ⟨k, hk⟩ : ∃ k, s.wire.length = k + 1 := ⟨s.wire.length - 1, by omega⟩
    rw [hwire, hk, List.range_succ, List.map_append, List.map_singleton, List.getLastD_concat]
    exact hpause k (by omega)
  have hzero (j : Nat) (hj : j < s.cfg.scratchLen) : s.scratch.read j = some 0 := by
    obtain ⟨x, hx, rfl⟩ := exists_offset (q * s.cfg.bpl) hj
    exact (hscratch x hx).trans (congrArg some (hpause _ (Nat.le_add_right _ x)))
  have hwr' : q % 2 * s.cfg.bpl = s.cfg.bpl := by rw [hodd, Nat.one_mul]
  have hidx' : s.dmaIdx.holds (fun i => decide (i < s.cfg.scratchLen)) = true := by
    rw [hidx]
    exact decide_eq_true (Nat.mod_lt _ (scratchLen_pos _))
  exact ⟨hset, rfl, rfl, rfl, rfl, rfl, rfl, hccr.trans (congrArg Elem.val hccr'), hn, hncur, htotal,
    congrArg Elem.val htotal', hled.trans (congrArg Elem.val (by omega)), hwr.trans (congrArg Elem.val hwr'),
    hidx', hzero⟩

theorem serveComplete_inFlight (hv : s.cfg.valid = true) (h : InFlight s a n q) (hf : s.tcFlag = true) :
    ∃ t, serveComplete s = .ok t ∧ (AtRest t a n ∨ InFlight t a n (q + 1)) := by
  obtain ⟨hdue, hodd, hht⟩ := h.odd_of_tcFlag hf
  have hsucc := succ_half_start s.cfg q
  rcases Nat.lt_or_ge ((q + 1) * s.cfg.bpl) (s.cfg.frameLen n) with hmore | hend
  · obtain ⟨t, hfill, ht⟩ := refill_inFlight h hdue hmore
    rw [← acknowledged_complete_eq hht] at hfill
    exact ⟨t, serveComplete_eq_ok.2 ⟨_, _, h.pos, h.total, .inl ⟨by omega, hfill⟩⟩, .inr ht⟩
  · have hrest := disarmed_atRest hv h hodd hdue hend
    rw [← acknowledged_complete_eq hht] at hrest
    exact ⟨_, serveComplete_eq_ok.2 ⟨_, _, h.pos, h.total, .inr ⟨by omega, rfl⟩⟩, .inl hrest⟩

end Services

end Sys2Proof.Machine
end

section
/-! PROOFS. The invariant of fault-free runs (R47 to R51, R75, R190 to R209): what it says, that every step keeps it, and
that only a late service faults. -/

namespace Sys2Proof.Machine

variable {s t : State} {a : BufId} {n q : Nat}

/-- The phases of a fault-free run: before `init`, at rest, or with a frame in flight. -/
abbrev InPhase (s : State) : Prop := BeforeInit s ∨ (∃ a n, AtRest s a n) ∨ ∃ a n q, InFlight s a n q

theorem inv_iff : Inv s ↔ Sound s ∧ InPhase s := 
  ⟨fun ⟨hv, hf, hm, hp⟩ => ⟨⟨⟨hv, hf⟩, hm⟩, hp⟩, fun ⟨⟨⟨hv, hf⟩, hm⟩, hp⟩ => ⟨hv, hf, hm, hp⟩⟩

section Phases

theorem InFlight.setUp (h : InFlight s a n q) : SetUp s a := h.1

theorem InFlight.busy (h : InFlight s a n q) : s.busy = true := by
  obtain ⟨-, hbusy, -⟩ := h
  exact hbusy

theorem AtRest.setUp (h : AtRest s a n) : SetUp s a := h.1

theorem AtRest.notBusy (h : AtRest s a n) : s.busy = false := by
  obtain ⟨-, hbusy, -⟩ := h
  exact hbusy

theorem SetUp.active (h : SetUp s a) : s.active = .val a := by
  obtain ⟨-, hact, -⟩ := h
  exact hact

theorem SetUp.full (h : SetUp s a) (b : BufId) : BufferFull s b := by
  obtain ⟨-, -, hfull0, hfull1, -⟩ := h
  cases b <;> assumption

theorem InPhase.setUp (h : InPhase s) (hi : s.initialised = true) : ∃ a, SetUp s a := by
  obtain hbefore | ⟨a, n, hrest⟩ | ⟨a, n, q, hflight⟩ := h
  · rw [hbefore.1] at hi
    cases hi
  · exact ⟨a, hrest.setUp⟩
  · exact ⟨a, hflight.setUp⟩

/-- The timer runs only while a frame is in flight. -/
theorem InPhase.inFlight_of_timEn (h : InPhase s) (ht : s.timEn = true) : ∃ a n q, InFlight s a n q := by
  obtain ⟨-, -, -, htim, -⟩ | ⟨a, n, -, -, -, htim, -⟩ | hflight := h
  · rw [htim] at ht; cases ht
  · rw [htim] at ht; cases ht
  · exact hflight

/-- A flag is pending only while a frame is in flight. -/
theorem InPhase.inFlight_of_flag (h : InPhase s) (hf : s.htFlag = true ∨ s.tcFlag = true) :
    ∃ a n q, InFlight s a n q := by
  obtain ⟨-, -, -, -, -, hht, htc⟩ | ⟨a, n, -, -, -, -, -, hht, htc, -⟩ | hflight := h
  · rw [hht, htc] at hf; simp at hf
  · rw [hht, htc] at hf; simp at hf
  · exact hflight

theorem InPhase.atRest (h : InPhase s) (hi : s.initialised = true) (hb : s.busy = false) : ∃ a n, AtRest s a n := by
  obtain hbefore | hrest | ⟨a, n, q, hflight⟩ := h
  · rw [hbefore.1] at hi; cases hi
  · exact hrest
  · rw [hflight.busy] at hb; cases hb

end Phases

section InnerProcedures
/-! Between two steps the block is inside neither `refresh` nor a service (R271; log 12). -/

theorem InPhase.not_insideRefresh (hv : s.cfg.valid = true) (h : InPhase s) : insideRefresh s = false := by
  refine Bool.eq_false_iff.2 fun hinside => ?_
  obtain ⟨-, hi, hb, hpos⟩ := insideRefresh_eq_true.1 hinside
  obtain ⟨a, n, hrest⟩ := h.atRest hi hb
  obtain ⟨-, -, -, -, -, -, -, -, -, -, -, hpos', -⟩ := hrest
  have hend : s.cfg.frameLen n = 0 := Elem.val.inj (hpos'.symm.trans hpos)
  have := leds_lt_frameLen n hv
  omega

theorem InPhase.not_insideService (h : InPhase s) : insideService s = false := by
  refine Bool.eq_false_iff.2 fun hinside => ?_
  obtain ⟨-, hb, p, w, hpos, hwr, hne⟩ := insideService_eq_true.1 hinside
  obtain ⟨-, hbusy, -⟩ | ⟨a, n, hrest⟩ | ⟨a, n, q, hflight⟩ := h
  · rw [hbusy] at hb; cases hb
  · rw [hrest.notBusy] at hb; cases hb
  · have hp : q * s.cfg.bpl = p := Elem.val.inj (hflight.pos.symm.trans hpos)
    obtain ⟨-, -, -, -, -, -, -, -, -, -, hwr', -⟩ := hflight
    have hw : q % 2 * s.cfg.bpl = w := Elem.val.inj (hwr'.symm.trans hwr)
    exact hne (by rw [← hp, ← hw, half_start_mod_scratchLen])

theorem InPhase.not_fillEnabled (hv : s.cfg.valid = true) (h : InPhase s) : fillEnabled s = false := by
  rw [fillEnabled, h.not_insideRefresh hv, h.not_insideService, Bool.or_self]

theorem InPhase.not_armEnabled (hv : s.cfg.valid = true) (h : InPhase s) : armEnabled s = false := by
  rw [armEnabled, h.not_insideRefresh hv, Bool.false_and]

theorem InPhase.not_disarmEnabled (h : InPhase s) : disarmEnabled s = false := by
  rw [disarmEnabled, h.not_insideService, Bool.false_and]

end InnerProcedures

section Commands
/-! The commands: writes go to the writable buffer (R163), a refresh that is taken arms a frame (R233). -/

theorem setBuf_bufferFull {b : BufId} {base : Nat} {colors : List Color} (hs : ∀ c, BufferFull s c) (c : BufId) :
    BufferFull (s.setBuf b ((s.buf b).writeRun base colors)) c := by
  intro i hi
  rw [State.setBuf_maxLeds] at hi
  rw [State.setBuf_buf]
  split
  next =>
    rw [Memory.read_writeRun]
    split
    next hin => rw [List.getElem?_eq_getElem (by omega)]; rfl
    next => exact hs _ i hi
  next => exact hs c i hi

theorem setBuf_setUp {b : BufId} {base : Nat} {colors : List Color} (h : SetUp s a) :
    SetUp (s.setBuf b ((s.buf b).writeRun base colors)) a := by
  have hfull := setBuf_bufferFull (b := b) (base := base) (colors := colors) h.full
  obtain ⟨hi, hact, -, -, harr, hcnt, hconf, hmode⟩ := h
  refine ⟨by simpa using hi, by simpa using hact, hfull .b0, hfull .b1, ?_⟩
  cases b <;> exact ⟨harr, hcnt, hconf, hmode⟩

theorem setBuf_atRest {b : BufId} {base : Nat} {colors : List Color} (h : AtRest s a n) :
    AtRest (s.setBuf b ((s.buf b).writeRun base colors)) a n := by
  refine ⟨setBuf_setUp h.setUp, ?_⟩
  obtain ⟨-, h⟩ := h
  cases b <;> exact h

theorem setBuf_other_inFlight {base : Nat} {colors : List Color} (h : InFlight s a n q) :
    InFlight (s.setBuf a.other ((s.buf a.other).writeRun base colors)) a n q := by
  refine ⟨setBuf_setUp h.setUp, ?_⟩
  obtain ⟨-, h⟩ := h
  cases a <;> exact h

/-- A write to the writable buffer leaves the phase as it is (R163, R208). -/
theorem setBuf_other_inPhase {base : Nat} {colors : List Color} (h : InPhase s) (hi : s.initialised = true)
    (ha : s.active = .val a) : InPhase (s.setBuf a.other ((s.buf a.other).writeRun base colors)) := by
  obtain hbefore | ⟨a', n, hrest⟩ | ⟨a', n, q, hflight⟩ := h
  · rw [hbefore.1] at hi; cases hi
  · exact .inr (.inl ⟨a', n, setBuf_atRest hrest⟩)
  · cases hflight.setUp.active.symm.trans ha
    exact .inr (.inr ⟨a, n, q, setBuf_other_inFlight hflight⟩)

/-- What a frame is armed over: the block configured, and the compare register at the pause (R35, R230, R233). -/
abbrev Standby (s : State) : Prop :=
  s.initialised = true ∧ s.arr = .val s.cfg.table.periodTicks ∧ s.dmaConf = .val (dmaConfOf s.cfg) ∧
    s.outMode ≠ .unconfigured ∧ s.ccr = .val 0

theorem AtRest.standby (h : AtRest s a n) : Standby s := by
  obtain ⟨⟨hi, -, -, -, harr, -, hconf, hmode⟩, -, -, -, -, -, -, hccr, -⟩ := h
  exact ⟨hi, harr, hconf, hmode, hccr⟩

theorem initFilled_standby (s : State) : Standby s.initFilled := by
  refine ⟨rfl, rfl, rfl, ?_, rfl⟩
  show outModeOf _ ≠ _
  unfold outModeOf
  split <;> simp

/-- A refresh fills both buffers: the writable one was full, and is copied forward (R74). -/
theorem refreshed_bufferFull (hf : BufferFull s a.other) (h : Refreshed s t a n) (b : BufId) : BufferFull t b := by
  obtain ⟨hbuf, hcopy, -, hframe⟩ := h
  have hmax : t.maxLeds = s.maxLeds := by rw [hframe]; rfl
  have hother : BufferFull t a.other := fun i hi => by
    rw [hbuf]
    exact hf i (hmax ▸ hi)
  have hcopied : BufferFull t a := fun i hi => by
    rw [hcopy, if_pos (hmax ▸ hi)]
    exact hf i (hmax ▸ hi)
  cases a <;> cases b <;> assumption

/-- A refresh that is taken leaves its frame in flight, with no beat taken (R195, R196, R233). -/
theorem refreshed_inFlight (hv : s.cfg.valid = true) (hs : Standby s) (hf : BufferFull s a.other) (hn : n ≤ s.maxLeds)
    (h : Refreshed s t a n) : InFlight t a.other n 0 := by
  obtain ⟨hi, harr, hconf, hmode, hccr⟩ := hs
  have hfull0 := refreshed_bufferFull hf h .b0
  have hfull1 := refreshed_bufferFull hf h .b1
  obtain ⟨hbuf, -, hscratch, hframe⟩ := h
  have hvals (x : Nat) (hx : x < s.cfg.scratchLen) : t.scratch.read ((0 * s.cfg.bpl + x) % s.cfg.scratchLen) =
      some (frameValue s.cfg (t.buf a.other) n (0 * s.cfg.bpl + x)) := by
    rw [Nat.zero_mul, Nat.zero_add, Nat.mod_eq_of_lt hx, hscratch, if_pos hx, hbuf]
  have hcnt : (.val 0 : Elem Nat).holds (fun c => decide (c ≤ s.cfg.table.periodTicks)) = true := by simp [Elem.holds]
  have hlt : 0 * s.cfg.bpl < s.cfg.frameLen n := by
    rw [Nat.zero_mul]
    exact Nat.zero_lt_of_lt (leds_lt_frameLen n hv)
  have hnone : ¬ (0 + 1) * s.cfg.bpl ≤ 0 := by
    have := bpl_pos s.cfg
    omega
  generalize t.buf0 = m0 at hframe
  generalize t.buf1 = m1 at hframe
  generalize t.scratch = m at hframe hvals
  subst hframe
  exact ⟨⟨hi, rfl, hfull0, hfull1, harr, hcnt, hconf, hmode⟩, rfl, rfl, rfl, hn, rfl, rfl,
    congrArg Elem.val (Nat.zero_mul _).symm, hlt, congrArg Elem.val (Nat.min_comm 2 n),
    congrArg Elem.val (Nat.zero_mul _).symm, congrArg Elem.val (Nat.zero_mod _).symm, (Nat.zero_mul _).le,
    Nat.mul_pos (Nat.succ_pos _) (bpl_pos _), (decide_eq_false fun hc => hnone hc.1).symm,
    (decide_eq_false fun hc => hnone hc.1).symm, rfl, hvals, hccr, rfl⟩

theorem refreshNow_atRest (hv : s.cfg.valid = true) (h : AtRest s a n) (m : Nat) :
    ∃ t, refreshNow m s = .ok t ∧ InFlight t a.other (min m s.maxLeds) 0 := by
  obtain ⟨t, hrefresh, ht⟩ := refreshNow_completes (n := m) h.setUp.active (h.setUp.full a.other)
  exact ⟨t, hrefresh, refreshed_inFlight hv h.standby (h.setUp.full a.other) (Nat.min_le_right _ _) ht⟩

theorem initBody_inFlight (hv : s.cfg.valid = true) : ∃ t, initBody s = .ok t ∧ InFlight t .b1 s.maxLeds 0 := by
  obtain ⟨t, hbody, ht⟩ := initBody_completes s
  exact ⟨t, hbody, refreshed_inFlight (s := s.initFilled) (a := .b0) hv (initFilled_standby s) initFilled_bufferFull
    (Nat.le_refl _) ht⟩

end Commands

section Ticks

/-- `tick` counts in range and emits a level; neither is anything the frame depends on (R143). -/
theorem counted_inFlight {c : Nat} {levels : List Level} (h : InFlight s a n q) (hc : c ≤ s.cfg.table.periodTicks) :
    InFlight { s with levels := levels, cnt := .val c } a n q := by
  obtain ⟨⟨hi, hact, hfull0, hfull1, harr, -, hconf, hmode⟩, hframe⟩ := h
  exact ⟨⟨hi, hact, hfull0, hfull1, harr, decide_eq_true hc, hconf, hmode⟩, hframe⟩

/-- What `tick` reads holds a value while a frame is in flight (R21, R143). -/
theorem InFlight.tick_reads (h : InFlight s a n q) : ∃ cnt ccr, s.cnt = .val cnt ∧ cnt ≤ s.cfg.table.periodTicks ∧
    s.ccr = .val ccr ∧ s.arr = .val s.cfg.table.periodTicks := by
  obtain ⟨⟨-, -, -, -, harr, hcnt, -, -⟩, -, -, -, -, -, -, -, -, -, -, -, -, -, -, -, -, -, hccr, -⟩ := h
  cases hc : s.cnt with
  | unspecified => rw [hc] at hcnt; cases hcnt
  | val cnt => exact ⟨cnt, _, rfl, by rw [hc] at hcnt; exact of_decide_eq_true hcnt, hccr, harr⟩

/-- Everything `tick` can do with a frame in flight. -/
theorem tickBody_outcome (h : InFlight s a n q) : (∃ t, tickBody s = .ok t ∧ InFlight t a n q) ∨
    (tickBody s = .error .refillOverrun ∧ (s.htFlag = true ∨ s.tcFlag = true)) := by
  obtain ⟨cnt, ccr, hcnt, hle, hccr, harr⟩ := h.tick_reads
  have hdma : s.dmaEn = true := by
    obtain ⟨-, -, -, hdma, -⟩ := h
    exact hdma
  by_cases hwrap : cnt = s.cfg.table.periodTicks
  · have hbody : tickBody s = beat { s with levels := s.levels ++ [lineLevel s.timEn cnt ccr], cnt := .val 0 } := by
      simp [tickBody, hcnt, hccr, harr, hwrap, updateEvent, hdma]
    rw [hbody]
    exact beat_outcome (counted_inFlight h (Nat.zero_le _))
  · refine .inl ⟨{ s with levels := s.levels ++ [lineLevel s.timEn cnt ccr], cnt := .val (cnt + 1) }, ?_,
      counted_inFlight h (by omega)⟩
    simp [tickBody, hcnt, hccr, harr, hwrap]

end Ticks

section Step

theorem ok_unique {α : Type} {e : Except Fault α} {x y : α} (hx : e = .ok x) (hy : e = .ok y) : x = y :=
  Except.ok.inj (hx.symm.trans hy)

/-- Every instruction keeps the phases of a fault-free run. -/
theorem exec_inPhase {i : Instr} (hv : s.cfg.valid = true) (hp : InPhase s) (h : exec i s = .next t) : InPhase t := by
  cases i with
  | init =>
    obtain ⟨-, -, -, u, hfill, hrefresh⟩ := exec_init_next h
    obtain ⟨t', hbody, ht⟩ := initBody_inFlight hv
    cases ok_unique hbody (bind_eq_ok.2 ⟨u, hfill, hrefresh⟩)
    exact .inr (.inr ⟨_, _, _, ht⟩)
  | setLed index color =>
    obtain ⟨⟨-, -, hi⟩, ⟨-, rfl⟩ | ⟨a, ha, -, rfl⟩⟩ := exec_setLed_next h
    · exact hp
    · exact setBuf_other_inPhase hp hi ha
  | setAllLeds color count refreshFlag =>
    obtain ⟨⟨-, -, hi⟩, a, f, ha, rfl, rfl⟩ := exec_setAllLeds_next h
    have hf := setBuf_other_inPhase (base := 0) (colors := List.replicate (min count s.maxLeds) color) hp hi ha
    cases refreshFlag <;> exact hf
  | refresh nLeds =>
    obtain ⟨⟨-, -, hi⟩, ⟨-, rfl⟩ | ⟨hb, h⟩⟩ := exec_refresh_next h
    · exact hp
    · obtain ⟨a, n, hrest⟩ := hp.atRest hi hb
      obtain ⟨t', h', ht⟩ := refreshNow_atRest (s := { s with held := none }) hv hrest nLeds
      cases ok_unique h' h
      exact .inr (.inr ⟨_, _, _, ht⟩)
  | slot =>
    obtain ⟨-, ⟨htim, -, h⟩ | ⟨-, rfl⟩⟩ := exec_slot_next h
    · obtain ⟨a, n, q, hflight⟩ := hp.inFlight_of_timEn htim
      obtain ⟨t', h', ht⟩ | ⟨h', -⟩ := beat_outcome hflight
      · cases ok_unique h' h
        exact .inr (.inr ⟨_, _, _, ht⟩)
      · rw [h'] at h; cases h
    · exact hp
  | onHalfTransfer =>
    obtain ⟨-, ⟨hf, -, h⟩ | ⟨-, rfl⟩⟩ := exec_onHalfTransfer_next h
    · obtain ⟨a, n, q, hflight⟩ := hp.inFlight_of_flag (.inl hf)
      obtain ⟨t', h', ht⟩ := serveHalfTransfer_inFlight hflight hf
      cases ok_unique h' h
      exact .inr (.inr ⟨_, _, _, ht⟩)
    · exact hp
  | onComplete =>
    obtain ⟨-, ⟨hf, -, h⟩ | ⟨-, rfl⟩⟩ := exec_onComplete_next h
    · obtain ⟨a, n, q, hflight⟩ := hp.inFlight_of_flag (.inr hf)
      obtain ⟨t', h', ht⟩ := serveComplete_inFlight hv hflight hf
      cases ok_unique h' h
      exact .inr (ht.imp (fun hrest => ⟨_, _, hrest⟩) fun hflight => ⟨_, _, _, hflight⟩)
    · exact hp
  | tick =>
    obtain ⟨-, -, ⟨htim, h⟩ | ⟨-, rfl⟩⟩ := whenEnabled_eq_next h
    · obtain ⟨a, n, q, hflight⟩ := hp.inFlight_of_timEn htim
      obtain ⟨t', h', ht⟩ | ⟨h', -⟩ := tickBody_outcome hflight
      · cases ok_unique h' (settle_eq_next.1 h)
        exact .inr (.inr ⟨_, _, _, ht⟩)
      · rw [h'] at h; cases h
    · exact hp
  | fillHalf =>
    obtain ⟨-, ⟨he, -⟩ | ⟨-, rfl⟩⟩ := exec_fillHalf_next h
    · rw [hp.not_fillEnabled hv] at he; cases he
    · exact hp
  | arm =>
    obtain ⟨-, ⟨he, -⟩ | ⟨-, rfl⟩⟩ := exec_arm_next h
    · rw [hp.not_armEnabled hv] at he; cases he
    · exact hp
  | disarm =>
    obtain ⟨-, ⟨he, -⟩ | ⟨-, rfl⟩⟩ := exec_disarm_next h
    · rw [hp.not_disarmEnabled] at he; cases he
    · exact hp
  | encode | ledwordGrb24 | ledwordRgb24 | ledwordGrbw32 | ledwordRgbw32 | symBit0 | symBit1 | symPause =>
    obtain ⟨-, rfl⟩ := answer_eq_next h
    exact hp

theorem exec_keeps_inv {i : Instr} (hs : Inv s) (h : exec i s = .next t) : Inv t := by
  obtain ⟨hsound, hphase⟩ := inv_iff.1 hs
  have ⟨⟨hv, _⟩, _⟩ := hsound
  exact inv_iff.2 ⟨exec_sound h hsound, exec_inPhase hv hphase h⟩

/-- The schedule changes only whose turn it is, which no phase depends on (log 3, log 7). -/
theorem nextAction_keeps_inv {i : Instr} {s' : State} (hs : Inv s) (h : nextAction s = .run i s') : Inv s' := by
  obtain ⟨r, rest, -, -, -, rfl⟩ | h := nextAction_cases h
  · exact hs
  · obtain ⟨-, rfl⟩ | ⟨-, rfl⟩ | ⟨-, rfl⟩ | ⟨m, -, -, rfl⟩ := eagerAction_cases h <;> exact hs

end Step

/-- Settles O46: the step's operation keeps the memories and the phase, whichever the schedule picks. -/
theorem stepKeepsTheStreamingInvariant : Obligations.StepKeepsTheStreamingInvariant := by
  unfold Obligations.StepKeepsTheStreamingInvariant
  intro s t hs h
  obtain ⟨i, s', hact, hexec⟩ | ⟨-, -, -, rfl⟩ := step_eq_next h
  · exact exec_keeps_inv (nextAction_keeps_inv hs hact) hexec
  · exact hs

section Rules

theorem phase_ne_idle (n q k : Nat) : phase n q k ≠ .idle := by
  unfold phase
  split
  · simp
  · split <;> simp

theorem frameLen_mod_scratchLen (c : Config) (n : Nat) : c.frameLen n % c.scratchLen = 0 :=
  Nat.mod_eq_zero_of_dvd (scratchLen_dvd_frameLen c n)

theorem frameLen_mod_bpl (c : Config) (n : Nat) : c.frameLen n % c.bpl = 0 := by
  obtain ⟨m, hm⟩ := frameLen_eq_halves c n
  rw [hm, Nat.mul_mod_left]

end Rules

/-- Settles O48: at rest the cursor stands at the end of the frame; in flight `pos` and the flags are those of the
half being played. -/
theorem invariantGivesTheRules : Obligations.InvariantGivesTheRules := by
  unfold Obligations.InvariantGivesTheRules
  intro s hs hinit
  obtain ⟨⟨⟨hv, -⟩, -⟩, hbefore | ⟨a, n, hrest⟩ | ⟨a, n, q, hflight⟩⟩ := inv_iff.1 hs
  · rw [hbefore.1] at hinit; cases hinit
  · obtain ⟨-, hbusy, hfsm, htim, hdma, hht, htc, hccr, hn, hncur, htotal, hpos, hled, -⟩ := hrest
    refine ⟨by simp [hbusy, hfsm, htim, hdma], ?_, by simp [hht], by simp [htc], by simp [hht], fun _ => hccr⟩
    exact ⟨_, _, _, _, hpos, htotal, hled, hncur, frameLen_mod_bpl _ _, frameLen_mod_scratchLen _ _,
      scratchLen_le_frameLen n hv, Nat.le_refl _, by simp [hbusy], Nat.le_refl n, hn⟩
  · have heven := hflight.even_of_htFlag
    have hodd := hflight.odd_of_tcFlag
    obtain ⟨-, hbusy, htim, hdma, hn, hncur, htotal, hpos, hlt, hled, hwr, -, -, -, -, -, -, -, -, hfsm⟩ := hflight
    have hne : s.fsm ≠ .idle := hfsm ▸ phase_ne_idle n q _
    refine ⟨by simp [hbusy, hne, htim, hdma], ?_, fun hf => ?_, fun hf => ?_, fun ⟨hht, htc⟩ => ?_,
      fun hf => absurd hf hne⟩
    · exact ⟨_, _, _, _, hpos, htotal, hled, hncur, Nat.mul_mod_left _ _, frameLen_mod_scratchLen _ _,
        scratchLen_le_frameLen n hv, hlt.le, fun _ => hlt, Nat.min_le_left _ _, hn⟩
    · obtain ⟨-, he, -⟩ := heven hf
      rw [hwr, he, Nat.zero_mul]
    · obtain ⟨-, ho, -⟩ := hodd hf
      rw [hwr, ho, Nat.one_mul]
    · obtain ⟨-, -, hclear⟩ := heven hht
      rw [hclear] at htc; cases htc

section Faults
/-! Where a fault can come from: in a live state the guards raise none, and in a phase of `Inv` only a beat does. -/

variable {k : Host.Outcome State Fault Refusal} {r : Fault}

theorem command_eq_fault (hl : Live s) (h : command s k = .fault r) : s.issuer = .thread ∧ k = .fault r := by
  rw [command, live_of_ok hl.1 hl.2] at h
  split at h
  next hi => exact ⟨hi, h⟩
  next => cases h

theorem readyCommand_eq_fault (hl : Live s) (h : readyCommand s k = .fault r) : s.initialised = true ∧ k = .fault r := by
  obtain ⟨-, h⟩ := command_eq_fault hl h
  split at h
  next hi => exact ⟨hi, h⟩
  next => cases h

theorem whenEnabled_eq_fault {e : Bool} (hl : Live s) (h : whenEnabled e s k = .fault r) : e = true ∧ k = .fault r := by
  rw [whenEnabled, live_of_ok hl.1 hl.2] at h
  split at h
  next he => exact ⟨he, h⟩
  next => cases h

/-- A body that completes does not fault. -/
theorem settle_ne_fault {e : Except Fault State} (he : ∃ t, e = .ok t) : settle e ≠ .fault r := by
  obtain ⟨t, rfl⟩ := he
  simp

theorem writeWritable_completes {base : Nat} {colors : List Color} (ha : s.active = .val a)
    (hlen : base + colors.length ≤ s.maxLeds) : ∃ t, writeWritable base colors s = .ok t :=
  ⟨_, writeWritable_eq_ok.2 ⟨a, ha, hlen, rfl⟩⟩

theorem setLedBody_completes {index : Nat} {color : Color} (ha : s.active = .val a) :
    ∃ t, setLedBody index color s = .ok t := by
  unfold setLedBody
  split
  next hin => exact writeWritable_completes ha (of_decide_eq_true hin)
  next => exact ⟨s, rfl⟩

theorem setAllLedsBody_completes {color : Color} {count : Nat} {flag : Bool} (ha : s.active = .val a) :
    ∃ t, setAllLedsBody color count flag s = .ok t :=
  ⟨_, bind_eq_ok.2 ⟨_, fillAll_eq_ok.2 ⟨a, ha, rfl⟩, rfl⟩⟩

theorem refreshOrHold_ne_fault (hv : s.cfg.valid = true) (hp : InPhase s) (hi : s.initialised = true) {m : Nat} :
    refreshOrHold m s ≠ .fault r := by
  cases hb : s.busy
  · obtain ⟨a, n, hrest⟩ := hp.atRest hi hb
    obtain ⟨t, h, -⟩ := refreshNow_atRest (s := { s with held := none }) hv hrest m
    rw [refreshOrHold_of_idle hb]
    exact settle_ne_fault ⟨t, h⟩
  · rw [refreshOrHold_of_busy hb]
    simp

/-- In a phase of `Inv` only a late beat faults (R197, R255, R264). -/
theorem exec_fault_of_inPhase {i : Instr} (hl : Live s) (hp : InPhase s) (h : exec i s = .fault r) :
    r = .refillOverrun ∧ (i = .slot ∨ i = .tick) ∧ (s.htFlag = true ∨ s.tcFlag = true) := by
  cases i with
  | init =>
    obtain ⟨-, h⟩ := command_eq_fault hl h
    split at h
    · cases h
    · obtain ⟨t, hbody, -⟩ := initBody_completes s
      exact absurd h (settle_ne_fault ⟨t, hbody⟩)
  | setLed index color =>
    obtain ⟨hi, h⟩ := readyCommand_eq_fault hl h
    obtain ⟨a, hset⟩ := hp.setUp hi
    exact absurd h (settle_ne_fault (setLedBody_completes hset.active))
  | setAllLeds color count flag =>
    obtain ⟨hi, h⟩ := readyCommand_eq_fault hl h
    obtain ⟨a, hset⟩ := hp.setUp hi
    exact absurd h (settle_ne_fault (setAllLedsBody_completes hset.active))
  | refresh nLeds =>
    obtain ⟨hi, h⟩ := readyCommand_eq_fault hl h
    exact absurd h (refreshOrHold_ne_fault hl.1 hp hi)
  | slot =>
    obtain ⟨he, h⟩ := whenEnabled_eq_fault hl h
    obtain ⟨htim, -⟩ := Bool.and_eq_true_iff.1 he
    obtain ⟨a, n, q, hflight⟩ := hp.inFlight_of_timEn htim
    obtain ⟨t, hbeat, -⟩ | ⟨hbeat, hpending⟩ := beat_outcome hflight
    · exact absurd h (settle_ne_fault ⟨t, hbeat⟩)
    · rw [hbeat] at h
      cases h
      exact ⟨rfl, .inl rfl, hpending⟩
  | onHalfTransfer =>
    obtain ⟨he, h⟩ := whenEnabled_eq_fault hl h
    obtain ⟨hf, -⟩ := serviceEnabled_eq_true.1 he
    obtain ⟨a, n, q, hflight⟩ := hp.inFlight_of_flag (.inl hf)
    obtain ⟨t, hserve, -⟩ := serveHalfTransfer_inFlight hflight hf
    exact absurd h (settle_ne_fault ⟨t, hserve⟩)
  | onComplete =>
    obtain ⟨he, h⟩ := whenEnabled_eq_fault hl h
    obtain ⟨hf, -⟩ := serviceEnabled_eq_true.1 he
    obtain ⟨a, n, q, hflight⟩ := hp.inFlight_of_flag (.inr hf)
    obtain ⟨t, hserve, -⟩ := serveComplete_inFlight hl.1 hflight hf
    exact absurd h (settle_ne_fault ⟨t, hserve⟩)
  | tick =>
    obtain ⟨htim, h⟩ := whenEnabled_eq_fault hl h
    obtain ⟨a, n, q, hflight⟩ := hp.inFlight_of_timEn htim
    obtain ⟨t, hbody, -⟩ | ⟨hbody, hpending⟩ := tickBody_outcome hflight
    · exact absurd h (settle_ne_fault ⟨t, hbody⟩)
    · rw [hbody] at h
      cases h
      exact ⟨rfl, .inr rfl, hpending⟩
  | fillHalf =>
    obtain ⟨he, -⟩ := whenEnabled_eq_fault hl h
    rw [hp.not_fillEnabled hl.1] at he; cases he
  | arm =>
    obtain ⟨he, -⟩ := whenEnabled_eq_fault hl h
    rw [hp.not_armEnabled hl.1] at he; cases he
  | disarm =>
    obtain ⟨he, -⟩ := whenEnabled_eq_fault hl h
    rw [hp.not_disarmEnabled] at he; cases he
  | encode | ledwordGrb24 | ledwordRgb24 | ledwordGrbw32 | ledwordRgbw32 | symBit0 | symBit1 | symPause =>
    cases (live_of_ok hl.1 hl.2).symm.trans h

end Faults

/-- Settles O52: every read of a fault-free run finds a value, so only the beat of a late service faults. -/
theorem onlyLateServiceFaults : Obligations.OnlyLateServiceFaults := by
  unfold Obligations.OnlyLateServiceFaults
  intro s i r hs h
  obtain ⟨⟨hl, -⟩, hphase⟩ := inv_iff.1 hs
  exact exec_fault_of_inPhase hl hphase h

end Sys2Proof.Machine
end

section
/-! PROOFS. The family of `20_memory.md`: the canonical memories, at reset and under every step, and the frame of a
repeated refresh. -/

namespace Sys2Proof.Machine

variable {s t : State}

section Canonical
/-! `exec_sound` keeps the memories of a live state. A step that answers a next state ran in a live one, and the
schedule touches no memory. -/

theorem live_of_live_next {k : Host.Outcome State Fault Refusal} (h : live s k = .next t) : Live s := by
  obtain ⟨hv, hf, -⟩ := live_eq_next h
  exact ⟨hv, hf⟩

/-- Every operation passes `live` first, whatever its row (R251, R255). -/
theorem live_of_exec_next {i : Instr} (h : exec i s = .next t) : Live s := by
  cases i <;> exact live_of_live_next h

/-- The schedule takes a request off the script and sets the issuing context; nothing else changes (R12; logs 3, 7). -/
theorem nextAction_frame {i : Instr} {s' : State} (h : nextAction s = .run i s') :
    s' = { s with script := s'.script, issuer := s'.issuer } := by
  obtain ⟨r, rest, -, -, -, rfl⟩ | h := nextAction_cases h
  · rfl
  · obtain ⟨-, rfl⟩ | ⟨-, rfl⟩ | ⟨-, rfl⟩ | ⟨n, -, -, rfl⟩ := eagerAction_cases h <;> rfl

theorem nextAction_keeps_memories {i : Instr} {s' : State} (h : nextAction s = .run i s')
    (hs : MemoriesCanonical s) : MemoriesCanonical s' := by
  rw [nextAction_frame h]
  exact hs

theorem resetWith_memoriesCanonical (c : Config) : MemoriesCanonical (State.resetWith c) :=
  ⟨rfl, rfl, rfl, rfl, rfl, rfl⟩

end Canonical

/-- Settles O44: the operation of the step runs in a live state with the memories of `s`, so `exec_sound` applies. -/
theorem stepKeepsTheMemoriesCanonical : Obligations.StepKeepsTheMemoriesCanonical := by
  unfold Obligations.StepKeepsTheMemoriesCanonical
  intro s t hs h
  obtain ⟨i, s', hact, hexec⟩ | ⟨-, -, -, rfl⟩ := step_eq_next h
  · have hsound : Sound s' := ⟨live_of_exec_next hexec, nextAction_keeps_memories hact hs⟩
    obtain ⟨-, hmem⟩ := exec_sound hexec hsound
    exact hmem
  · exact hs

/-- Settles O45: hardware reset lists no element in any of the three memories. -/
theorem resetMemoriesAreCanonical : Obligations.ResetMemoriesAreCanonical := by
  unfold Obligations.ResetMemoriesAreCanonical
  exact ⟨resetWith_memoriesCanonical _, fun c => ⟨resetWith_memoriesCanonical c,
    fun i => ⟨Memory.read_nil i, Memory.read_nil i, Memory.read_nil i⟩⟩⟩

section Repeated
/-! A refresh leaves both LED buffers with the same entries, so the next one makes a copy of the first frame's buffer
hardware-owned (R69, R74). -/

/-- A refresh taken leaves in `buf[a]`, hardware-owned from now on, what it held, and a copy of it in the other buffer
(R74, R233). -/
theorem refresh_copies_forward {n : Nat} {a : BufId} (h : exec (.refresh n) s = .next t) (hb : s.busy = false)
    (ha : t.active = .val a) : s.active = .val a.other ∧ t.cfg = s.cfg ∧ t.buf a = s.buf a ∧
      ∀ i, i < s.maxLeds → (t.buf a.other).read i = (s.buf a).read i := by
  obtain ⟨-, ⟨hbusy, -⟩ | ⟨-, hnow⟩⟩ := exec_refresh_next h
  · rw [hb] at hbusy; cases hbusy
  · obtain ⟨c, hc, -, hown, hcopy, -, hframe⟩ := refreshNow_cases hnow
    have hother : c.other = a := by
      rw [hframe] at ha
      exact Elem.val.inj ha
    subst hother
    rw [BufId.other_other]
    refine ⟨hc, exec_keeps_cfg h, hown, fun i hi => ?_⟩
    rw [hcopy i]
    exact if_pos hi

theorem ledRun_of_read_eq {c : Config} {m m' : Memory Color} {i : Nat} (h : m.read i = m'.read i) :
    ledRun c m i = ledRun c m' i := by
  rw [ledRun, ledRun, h]

/-- `frame(B, n)` depends on the first `n` entries of `B` only (R98). -/
theorem frame_of_read_eq {c : Config} {m m' : Memory Color} {n : Nat} (h : ∀ i, i < n → m.read i = m'.read i) :
    frame c m n = frame c m' n := by
  have hleds : (List.range n).flatMap (ledRun c m) = (List.range n).flatMap (ledRun c m') :=
    List.flatMap_congr fun i hi => ledRun_of_read_eq (h i (List.mem_range.1 hi))
  rw [frame, frame, hleds]

end Repeated

/-- Settles O28: the buffer of the second refresh is the other one of the first, which holds the copy. -/
theorem repeatedRefreshSendsTheSameFrame : Obligations.RepeatedRefreshSendsTheSameFrame := by
  unfold Obligations.RepeatedRefreshSendsTheSameFrame
  intro s t u v a b n _ hsb hst hta hua hucfg hu0 hu1 hub huv hvb
  obtain ⟨-, htcfg, htown, htcopy⟩ := refresh_copies_forward hst hsb hta
  obtain ⟨hua', hvcfg, hvown, -⟩ := refresh_copies_forward huv hub hvb
  have hab : a = b.other := Elem.val.inj (hua.symm.trans hua')
  have hba : b = a.other := by rw [hab, BufId.other_other]
  have hbuf : v.buf b = t.buf a.other := by
    rw [hvown, hba]
    cases a
    · exact hu1
    · exact hu0
  rw [State.maxLeds, State.maxLeds, hvcfg, hucfg, hbuf]
  refine frame_of_read_eq fun i hi => ?_
  have hin : i < s.maxLeds := by
    rw [State.maxLeds, ← htcfg]
    omega
  rw [htcopy i hin, htown]

end Sys2Proof.Machine
end

section
/-! PROOFS. The family of `30_encoding.md`, its first part: bytes and words, the fields of a command word, and the
decoder against the encoder (R92, R94, R96, R100, R110). -/

namespace Sys2Proof.Machine

section Words
/-! A word and its bytes, least significant byte first. -/

theorem wordOfBytes_bytesOfWord (n w : Nat) : wordOfBytes (bytesOfWord n w) = w % 256 ^ n := by
  induction n generalizing w with
  | zero => simp [bytesOfWord, wordOfBytes, Nat.mod_one]
  | succ n ih => simp [bytesOfWord, wordOfBytes, ih, Nat.pow_succ', Nat.mod_mul]

theorem bytesOfWord_wordOfBytes (bs : List Byte) : bytesOfWord bs.length (wordOfBytes bs) = bs := by
  induction bs with
  | nil => rfl
  | cons b bs ih =>
    have hlow : BitVec.ofNat 8 (b.toNat + 256 * wordOfBytes bs) = b := BitVec.eq_of_toNat_eq (by simp; omega)
    have hrest : (b.toNat + 256 * wordOfBytes bs) / 256 = wordOfBytes bs := by omega
    rw [List.length_cons, wordOfBytes, bytesOfWord, hlow, hrest, ih]

/-- Bit `k` of a word is bit `k mod 8` of its byte `k div 8`. -/
theorem testBit_wordOfBytes (bs : List Byte) (k : Nat) :
    (wordOfBytes bs).testBit k = (bs.getD (k / 8) 0).getLsbD (k % 8) := by
  induction bs generalizing k with
  | nil => simp [wordOfBytes]
  | cons b bs ih =>
    rw [wordOfBytes, Nat.add_comm, show 256 = 2 ^ 8 by rfl, Nat.testBit_two_pow_mul_add _ b.isLt]
    split
    next hk => simp [Nat.div_eq_of_lt hk, Nat.mod_eq_of_lt hk, BitVec.getLsbD]
    next hk =>
      obtain ⟨m, rfl⟩ := Nat.exists_eq_add_of_le' (Nat.le_of_not_lt hk)
      simp [ih]

end Words

section Fields
/-! The colour of a command word: bits 51..20, one byte for each channel (R110). -/

variable {w : Nat}

theorem colorBits_lt (c : Color) : colorBits c < 2 ^ 52 := by
  unfold colorBits
  omega

theorem colorBits_mod (c : Color) : colorBits c % 2 ^ 20 = 0 := by
  unfold colorBits
  omega

theorem colorBits_cmdColor (w : Nat) : colorBits (cmdColor w) = w / 2 ^ 20 % 2 ^ 32 * 2 ^ 20 := by
  simp only [colorBits, cmdColor, BitVec.toNat_ofNat]
  omega

theorem colorBits_injective : Function.Injective colorBits := by
  rintro ⟨r, g, b, w⟩ ⟨r', g', b', w'⟩ h
  simp only [colorBits] at h
  simp only [Color.mk.injEq, ← BitVec.toNat_inj]
  omega

/-- A word is its ordinal, field `a`, the colour bits and the bits above them (R110). -/
theorem word_eq_fields (w : Nat) :
    w = w % 16 + cmdA w * 2 ^ 4 + w / 2 ^ 20 % 2 ^ 32 * 2 ^ 20 + w / 2 ^ 52 * 2 ^ 52 := by
  have hlow : w / 2 ^ 4 / 2 ^ 16 = w / 2 ^ 20 := Nat.div_div_eq_div_mul ..
  have hhigh : w / 2 ^ 20 / 2 ^ 32 = w / 2 ^ 52 := Nat.div_div_eq_div_mul ..
  unfold cmdA
  omega

/-- A command word whose bits 51..20 are those of a colour holds that colour. -/
theorem cmdColor_of_bits {c : Color} (h : w / 2 ^ 20 % 2 ^ 32 * 2 ^ 20 = colorBits c) : cmdColor w = c :=
  colorBits_injective ((colorBits_cmdColor w).trans h)

/-- The fields of a word that is written as such a sum. -/
theorem fields_of_word_eq (op a : Nat) (c : Color) (f : Nat) (hop : op < 16) (ha : a < 65536)
    (h : w = op + a * 2 ^ 4 + colorBits c + f * 2 ^ 52) :
    w % 16 = op ∧ cmdA w = a ∧ cmdColor w = c ∧ w / 2 ^ 52 = f := by
  have hlt := colorBits_lt c
  have hmod := colorBits_mod c
  refine ⟨by omega, ?_, cmdColor_of_bits (by omega), by omega⟩
  unfold cmdA
  omega

theorem toNat_cmdFlag (w : Nat) : (cmdFlag w).toNat = w / 2 ^ 52 % 2 := by
  unfold cmdFlag
  rcases Nat.mod_two_eq_zero_or_one (w / 2 ^ 52) with h | h <;> rw [h] <;> rfl

theorem cmdFlag_of_bit {flag : Bool} (h : w / 2 ^ 52 % 2 = flag.toNat) : cmdFlag w = flag := by
  rw [cmdFlag, h]
  cases flag <;> rfl

end Fields

section Commands
/-! The command word of an operation, and the operation of a command word (R100, R110). -/

variable {w : Nat} {i : Instr}

theorem whenZero_eq_ok {unused : Nat} {j : Instr} : whenZero unused j = .ok i ↔ unused = 0 ∧ j = i := by
  unfold whenZero
  split <;> simp_all

theorem whenZero_of_ne {unused : Nat} (h : unused ≠ 0) : whenZero unused i = .error .unusedFieldNotZero := if_neg h

/-- A row of R100: one that an abstract command word asks for. -/
abbrev IsOperation (i : Instr) : Prop := Laws.EncodeLength.formatBytes i = 8

theorem encode_of_operation (h : IsOperation i) : encode i = bytesOfWord 8 (commandWord i) := by
  cases i with
  | ledwordGrb24 | ledwordRgb24 | ledwordGrbw32 | ledwordRgbw32 | symBit0 | symBit1 | symPause => cases h
  | _ => rfl

theorem ofOrder_of_operation (h : IsOperation i) (order : ChannelOrder) : i.ofOrder order = true := by
  cases i with
  | ledwordGrb24 | ledwordRgb24 | ledwordGrbw32 | ledwordRgbw32 | symBit0 | symBit1 | symPause => cases h
  | _ => rfl

theorem commandWord_lt (h : i.fits = true) : commandWord i < 2 ^ 64 := by
  cases i with
  | setLed index color =>
    have := colorBits_lt color
    have hn : index < 65536 := of_decide_eq_true h
    simp only [commandWord]
    omega
  | setAllLeds color count flag =>
    have := colorBits_lt color
    have := flag.toNat_le
    have hn : count < 65536 := of_decide_eq_true h
    simp only [commandWord]
    omega
  | refresh nLeds =>
    have hn : nLeds < 65536 := of_decide_eq_true h
    simp only [commandWord]
    omega
  | encode color =>
    have := colorBits_lt color
    simp only [commandWord]
    omega
  | ledwordGrb24 | ledwordRgb24 | ledwordGrbw32 | ledwordRgbw32 => exact Nat.two_pow_pos 64
  | _ => decide

/-- The decoder reads every field of a command word where the encoder has put it. -/
theorem decodeCommand_commandWord (hi : IsOperation i) (hf : i.fits = true) :
    decodeCommand (commandWord i) = .ok i := by
  cases i with
  | ledwordGrb24 | ledwordRgb24 | ledwordGrbw32 | ledwordRgbw32 | symBit0 | symBit1 | symPause => cases hi
  | setLed index color =>
    obtain ⟨hop, ha, hc, hhigh⟩ := fields_of_word_eq (w := commandWord (.setLed index color)) 1 index color 0
      (by decide) (of_decide_eq_true hf) (by simp [commandWord])
    simp only [decodeCommand, hop, ha, hc]
    exact whenZero_eq_ok.2 ⟨hhigh, rfl⟩
  | setAllLeds color count flag =>
    obtain ⟨hop, ha, hc, hhigh⟩ := fields_of_word_eq (w := commandWord (.setAllLeds color count flag)) 2 count color
      flag.toNat (by decide) (of_decide_eq_true hf) (by simp [commandWord])
    have hbit := flag.toNat_le
    have hflag : cmdFlag (commandWord (.setAllLeds color count flag)) = flag := cmdFlag_of_bit (by omega)
    simp only [decodeCommand, hop, ha, hc, hflag]
    exact whenZero_eq_ok.2 ⟨by omega, rfl⟩
  | refresh nLeds =>
    have hn : nLeds < 65536 := of_decide_eq_true hf
    obtain ⟨hop, ha, -, -⟩ := fields_of_word_eq (w := commandWord (.refresh nLeds)) 3 nLeds Color.black 0 (by decide)
      hn (by simp [commandWord, colorBits, Color.black])
    simp only [decodeCommand, hop, ha]
    exact whenZero_eq_ok.2 ⟨by simp only [commandWord]; omega, rfl⟩
  | encode color =>
    obtain ⟨hop, ha, hc, hhigh⟩ := fields_of_word_eq (w := commandWord (.encode color)) 8 0 color 0 (by decide)
      (by decide) (by simp [commandWord])
    simp only [decodeCommand, hop, ha, hc, hhigh]
    rfl
  | _ => rfl

/-- A command word that decodes has no bit beside the fields of its operation, so it is that operation's word. -/
theorem commandWord_of_decodeCommand (h : decodeCommand w = .ok i) :
    IsOperation i ∧ i.fits = true ∧ commandWord i = w := by
  have hw := word_eq_fields w
  have ha : cmdA w < 65536 := Nat.mod_lt _ (by decide)
  have hc := colorBits_cmdColor w
  have hflag := toNat_cmdFlag w
  unfold decodeCommand at h
  split at h
  case h_2 hop =>
    obtain ⟨hz, rfl⟩ := whenZero_eq_ok.1 h
    refine ⟨rfl, decide_eq_true ha, ?_⟩
    rw [commandWord, hc]
    omega
  case h_3 hop =>
    obtain ⟨hz, rfl⟩ := whenZero_eq_ok.1 h
    refine ⟨rfl, decide_eq_true ha, ?_⟩
    have hbit : w / 2 ^ 52 % 2 = w / 2 ^ 52 := by omega
    rw [commandWord, hc, hflag, hbit]
    omega
  case h_4 hop =>
    obtain ⟨hz, rfl⟩ := whenZero_eq_ok.1 h
    refine ⟨rfl, decide_eq_true ha, ?_⟩
    rw [commandWord]
    omega
  case h_9 hop =>
    obtain ⟨hz, rfl⟩ := whenZero_eq_ok.1 h
    refine ⟨rfl, rfl, ?_⟩
    rw [commandWord, hc]
    omega
  case h_13 => cases h
  all_goals
    obtain ⟨hz, rfl⟩ := whenZero_eq_ok.1 h
    refine ⟨rfl, rfl, ?_⟩
    rw [commandWord]
    omega

end Commands

section Formats
/-! The number of bytes tells the formats apart (R92, R94, R110). -/

variable {order : ChannelOrder} {bytes : List Byte} {i : Instr}

theorem decode_of_eight_bytes (h : bytes.length = 8) : decode order bytes = decodeCommand (wordOfBytes bytes) := by
  match bytes, h with
  | [_, _, _, _, _, _, _, _], _ => rfl

theorem decode_bytesOfWord_eight {w : Nat} (h : w < 2 ^ 64) : decode order (bytesOfWord 8 w) = decodeCommand w := by
  rw [decode_of_eight_bytes (Laws.EncodeLength.length_bytesOfWord 8 w), wordOfBytes_bytesOfWord]
  exact congrArg decodeCommand (Nat.mod_eq_of_lt h)

theorem decodeSerialBit_eq_ok {b : Byte} (h : decodeSerialBit b = .ok i) :
    (b = 0 ∧ i = .symBit0) ∨ (b = 1 ∧ i = .symBit1) := by
  unfold decodeSerialBit at h
  split at h
  next hb => cases h; exact .inl ⟨hb, rfl⟩
  next =>
    split at h
    next hb => cases h; exact .inr ⟨hb, rfl⟩
    next => cases h

theorem decodeCompareWord_eq_ok {b0 b1 : Byte} (h : decodeCompareWord b0 b1 = .ok i) :
    b0 = 0 ∧ b1 = 0 ∧ i = .symPause := by
  unfold decodeCompareWord at h
  split at h
  next hb => cases h; exact ⟨hb.1, hb.2, rfl⟩
  next => cases h

/-- Everything bytes that decode can be: a serial bit, the pause word, an LED word, or a command word. -/
theorem decode_cases (h : decode order bytes = .ok i) :
    (bytes = [0] ∧ i = .symBit0) ∨ (bytes = [1] ∧ i = .symBit1) ∨ (bytes = [0, 0] ∧ i = .symPause) ∨
      (∃ low mid top, bytes = [low, mid, top] ∧ i = decodeLedWord24 order top mid low) ∨
      (∃ low lower upper top, bytes = [low, lower, upper, top] ∧ i = decodeLedWord32 order top upper lower low) ∨
      (bytes.length = 8 ∧ decodeCommand (wordOfBytes bytes) = .ok i) := by
  unfold decode at h
  split at h
  next b =>
    obtain ⟨rfl, rfl⟩ | ⟨rfl, rfl⟩ := decodeSerialBit_eq_ok h
    · exact .inl ⟨rfl, rfl⟩
    · exact .inr (.inl ⟨rfl, rfl⟩)
  next b0 b1 =>
    obtain ⟨rfl, rfl, rfl⟩ := decodeCompareWord_eq_ok h
    exact .inr (.inr (.inl ⟨rfl, rfl⟩))
  next b0 b1 b2 =>
    cases h
    exact .inr (.inr (.inr (.inl ⟨b0, b1, b2, rfl, rfl⟩)))
  next b0 b1 b2 b3 =>
    cases h
    exact .inr (.inr (.inr (.inr (.inl ⟨b0, b1, b2, b3, rfl, rfl⟩))))
  next => exact .inr (.inr (.inr (.inr (.inr ⟨rfl, h⟩))))
  next => cases h

theorem encode_decodeLedWord24 (order : ChannelOrder) (top mid low : Byte) :
    encode (decodeLedWord24 order top mid low) = [low, mid, top] := by
  cases order <;> rfl

theorem encode_decodeLedWord32 (order : ChannelOrder) (top upper lower low : Byte) :
    encode (decodeLedWord32 order top upper lower low) = [low, lower, upper, top] := by
  cases order <;> rfl

end Formats

/-- Settles O13: a command word carries every field of its operation, and an LED word is its operands' bytes. -/
theorem decodeOfEncode : Obligations.DecodeOfEncode := by
  unfold Obligations.DecodeOfEncode
  intro order i hf ho
  by_cases hi : IsOperation i
  · rw [encode_of_operation hi, decode_bytesOfWord_eight (commandWord_lt hf), decodeCommand_commandWord hi hf]
  · cases i with
    | ledwordGrb24 | ledwordRgb24 | ledwordGrbw32 | ledwordRgbw32 =>
      obtain rfl := of_decide_eq_true ho
      rfl
    | symBit0 | symBit1 | symPause => rfl
    | _ => exact absurd rfl hi

/-- Settles O14: by the format of the bytes; a command word that decodes is the word of what it decodes to. -/
theorem encodeOfDecode : Obligations.EncodeOfDecode := by
  unfold Obligations.EncodeOfDecode
  intro order bytes i h
  obtain ⟨rfl, rfl⟩ | ⟨rfl, rfl⟩ | ⟨rfl, rfl⟩ | ⟨low, mid, top, rfl, rfl⟩ | ⟨low, lower, upper, top, rfl, rfl⟩ |
    ⟨hlen, hcmd⟩ := decode_cases h
  · exact ⟨rfl, rfl, rfl⟩
  · exact ⟨rfl, rfl, rfl⟩
  · exact ⟨rfl, rfl, rfl⟩
  · exact ⟨encode_decodeLedWord24 .., by cases order <;> rfl, by cases order <;> rfl⟩
  · exact ⟨encode_decodeLedWord32 .., by cases order <;> rfl, by cases order <;> rfl⟩
  · obtain ⟨hi, hf, hw⟩ := commandWord_of_decodeCommand hcmd
    refine ⟨?_, hf, ofOrder_of_operation hi order⟩
    rw [encode_of_operation hi, hw, ← hlen, bytesOfWord_wordOfBytes]

end Sys2Proof.Machine
end

section
/-! PROOFS. The family of `30_encoding.md`, its second part: the command words R110 reserves, the LED words a build has
(R96), and what a step makes of a request (R100, R106). -/

namespace Sys2Proof.Machine

section Reserved
/-! A command word with a bit beside the fields of its operation (R110). -/

variable {w k : Nat}

/-- The bits of a command word that its operation does not use (R110). -/
def unusedBits (w : Nat) : Nat :=
  match w % 16 with
  | 1 => w / 2 ^ 52
  | 2 => w / 2 ^ 53
  | 3 => w / 2 ^ 20
  | 8 => cmdA w + w / 2 ^ 52
  | _ => w / 2 ^ 4

theorem decodeCommand_of_unassigned (h : 12 ≤ w % 16) : decodeCommand w = .error .unassignedOrdinal := by
  unfold decodeCommand
  split
  case h_13 => rfl
  all_goals omega

theorem decodeCommand_of_unused (hop : w % 16 < 12) (h : unusedBits w ≠ 0) :
    decodeCommand w = .error .unusedFieldNotZero := by
  unfold unusedBits at h
  unfold decodeCommand
  split
  case h_13 =>
    simp only [imp_false] at *
    omega
  all_goals
    rename_i hw
    rw [hw] at h
    exact whenZero_of_ne h

theorem div_two_pow_ne_zero_of_testBit {m : Nat} (hk : w.testBit k = true) (hm : m ≤ k) : w / 2 ^ m ≠ 0 := by
  have hge : 2 ^ m ≤ w := (Nat.pow_le_pow_right (by decide) hm).trans (Nat.ge_two_pow_of_testBit hk)
  exact (Nat.div_pos hge (Nat.two_pow_pos m)).ne'

theorem cmdA_ne_zero_of_testBit (hk : w.testBit k = true) (hlo : 4 ≤ k) (hhi : k < 20) : cmdA w ≠ 0 := by
  intro hz
  have hbit : (cmdA w).testBit (k - 4) = true := by
    rw [cmdA, Nat.testBit_mod_two_pow, Nat.testBit_div_two_pow, Nat.sub_add_cancel hlo, hk]
    simp
    omega
  rw [hz, Nat.zero_testBit] at hbit
  cases hbit

/-- The bits R110 gives the operation with this ordinal: the ordinal itself, field `a`, the colour, the flag. -/
abbrev UsedBit (op k : Nat) : Prop :=
  k < 4 ∨ (4 ≤ k ∧ k < 20 ∧ (op = 1 ∨ op = 2 ∨ op = 3)) ∨ (20 ≤ k ∧ k < 52 ∧ (op = 1 ∨ op = 2 ∨ op = 8)) ∨
    (k = 52 ∧ op = 2)

theorem unusedBits_ne_zero (hk : w.testBit k = true) (hu : ¬UsedBit (w % 16) k) : unusedBits w ≠ 0 := by
  unfold unusedBits
  split
  next h => exact div_two_pow_ne_zero_of_testBit hk (by omega)
  next h => exact div_two_pow_ne_zero_of_testBit hk (by omega)
  next h => exact div_two_pow_ne_zero_of_testBit hk (by omega)
  next h =>
    rcases Nat.lt_or_ge k 20 with hlow | hhigh
    · have := cmdA_ne_zero_of_testBit hk (by omega) hlow
      omega
    · have := div_two_pow_ne_zero_of_testBit (m := 52) hk (by omega)
      omega
  next => exact div_two_pow_ne_zero_of_testBit hk (by omega)

end Reserved

/-- Settles O16: the ordinal picks the row, and a bit beside its fields makes the row's unused part other than 0. -/
theorem reservedCommandWordsAreRejected : Obligations.ReservedCommandWordsAreRejected := by
  unfold Obligations.ReservedCommandWordsAreRejected
  intro order w hw
  rw [show tableBytes 64 w = bytesOfWord 8 w from rfl, decode_bytesOfWord_eight hw]
  exact ⟨decodeCommand_of_unassigned, fun hop k hk hu => decodeCommand_of_unused hop (unusedBits_ne_zero hk hu)⟩

/-- Settles O17: the words evaluated; each is short enough to decode by computation. -/
theorem specCommandWordsDecode : Obligations.SpecCommandWordsDecode := by
  unfold Obligations.SpecCommandWordsDecode
  decide

section LedWords
/-! An LED word is of the build whose channels it carries (R92, R96). -/

theorem wf_decodeLedWord24 (p : Params) (top mid low : Byte) :
    (decodeLedWord24 p.order top mid low).wf p = !p.hasWhite := by
  cases ho : p.order <;> cases hw : p.hasWhite <;> simp [decodeLedWord24, Instr.wf, ofVariant, ho, hw]

theorem wf_decodeLedWord32 (p : Params) (top upper lower low : Byte) :
    (decodeLedWord32 p.order top upper lower low).wf p = p.hasWhite := by
  cases ho : p.order <;> cases hw : p.hasWhite <;> simp [decodeLedWord32, Instr.wf, ofVariant, ho, hw]

theorem bpl_eq (c : Config) : c.bpl = if c.params.hasWhite = true then 32 else 24 := by
  unfold Config.bpl Config.nch
  split <;> rfl

end LedWords

/-- Settles O15: a word of three bytes is of the 3-channel build, one of four of the 4-channel build. -/
theorem ledWordLengthIsTheBuilds : Obligations.LedWordLengthIsTheBuilds := by
  unfold Obligations.LedWordLengthIsTheBuilds
  intro c bytes i h hlen
  obtain ⟨rfl, -⟩ | ⟨rfl, -⟩ | ⟨rfl, -⟩ | ⟨low, mid, top, rfl, rfl⟩ | ⟨low, lower, upper, top, rfl, rfl⟩ |
    ⟨hlen8, -⟩ := decode_cases h
  · simp at hlen
  · simp at hlen
  · simp at hlen
  · rw [wf_decodeLedWord24, bpl_eq]
    cases c.params.hasWhite <;> simp
  · rw [wf_decodeLedWord32, bpl_eq]
    cases c.params.hasWhite <;> simp
  · omega

section Requests
/-! A request that is no operation of the build (R100, R106; log 16), and the context of a placed word (log 20). -/

variable {s : State} {r : Request} {rest : List Request}

theorem nextAction_of_undecodable {e : DecodeError} (hs : s.script = r :: rest)
    (hd : requested s.cfg.params.order r.operation = .error e) : nextAction s = .refuse (.undecodable e) := by
  simp [nextAction, hs, hd]

theorem nextAction_of_illFormed {i : Instr} (hs : s.script = r :: rest)
    (hd : requested s.cfg.params.order r.operation = .ok i) (hw : i.wf s.cfg.params = false) :
    nextAction s = .refuse .illFormed := by
  simp [nextAction, hs, hd, hw]

theorem step_of_refuse {why : Refusal} (hl : Live s) (h : nextAction s = .refuse why) : step s = .refused why := by
  rw [step, h]
  exact live_of_ok hl.1 hl.2

theorem issuerOf_of_decode {order : ChannelOrder} {bytes : List Byte} {i : Instr} (h : decode order bytes = .ok i) :
    issuerOf order bytes = i.context := by
  rw [issuerOf, h]

end Requests

/-- Settles O58: the placed word heads the script and APP waits at nothing, so its operation is the next action. -/
theorem fetchWordIsRunNext : Obligations.FetchWordIsRunNext := by
  unfold Obligations.FetchWordIsRunNext
  intro s nbits w i c hd hw
  have hfree : appBlocked (s.withFetchWord nbits w) (issuerOf c.params.order (tableBytes nbits w)) i = false :=
    appBlocked_eq_false.2 (.inl rfl)
  rw [step_of_run (nextAction_of_request (s := s.withFetchWord nbits w) rfl hd hw hfree), issuerOf_of_decode hd]
  rfl

/-- Settles O59: the refusal is the next action, and a live state's step answers it. -/
theorem stepRefusesWhatIsNoRequest : Obligations.StepRefusesWhatIsNoRequest := by
  unfold Obligations.StepRefusesWhatIsNoRequest
  intro s r rest hl hs
  exact ⟨fun e hd => step_of_refuse hl (nextAction_of_undecodable hs hd),
    fun i hd hw => step_of_refuse hl (nextAction_of_illFormed hs hd hw)⟩

end Sys2Proof.Machine
end

section
/-! PROOFS. The family of `30_encoding.md`, its third part: the symbols, the serial bits and the compare values of a
Color Value, an LED word and a frame (R92 to R98, R175). -/

namespace Sys2Proof.Machine

section SerialBits
/-! Bit `j` of a sequence of channels is bit `7 - j mod 8` of channel `j div 8`, and its compare value follows (R93). -/

variable (c : Config) (chs : List Byte)

theorem channelBits_getElem? (v : Byte) {j : Nat} (hj : j < 8) : (channelBits v)[j]? = some (v.getLsbD (7 - j)) := by
  have hbit : [7, 6, 5, 4, 3, 2, 1, 0][j]? = some (7 - j) := by interval_cases j <;> rfl
  rw [channelBits, List.getElem?_map, hbit]
  rfl

theorem serialBits_getElem? {j : Nat} (hj : j < 8 * chs.length) :
    (serialBits chs)[j]? = some ((chs.getD (j / 8) 0).getLsbD (7 - j % 8)) := by
  induction chs generalizing j with
  | nil => simp at hj
  | cons v vs ih =>
    rw [serialBits, List.flatMap_cons, List.getElem?_append, length_channelBits]
    split
    next h =>
      rw [channelBits_getElem? v h, Nat.div_eq_of_lt h, Nat.mod_eq_of_lt h]
      rfl
    next h =>
      obtain ⟨m, rfl⟩ := Nat.exists_eq_add_of_le' (Nat.le_of_not_lt h)
      simp only [List.length_cons] at hj
      have hm : m < 8 * vs.length := by omega
      simpa [serialBits] using ih hm

/-- The compare value of a serial bit (R94). -/
theorem symbolCompare_bitSymbol (b : Bool) :
    symbolCompare c (bitSymbol b) = if b = true then c.table.t1h else c.table.t0h := by
  cases b <;> rfl

theorem compareRun_serialBits_getElem? {j : Nat} (hj : j < 8 * chs.length) :
    (compareRun c (serialBits chs))[j]? =
      some (if (chs.getD (j / 8) 0).getLsbD (7 - j % 8) = true then c.table.t1h else c.table.t0h) := by
  rw [compareRun, List.getElem?_map, serialBits_getElem? chs hj, Option.map_some, symbolCompare_bitSymbol]

/-- The serial bits of channels are the bits of their LED word from the top down: the word's lowest byte is the last
channel (R92). -/
theorem getLsbD_channel_eq_testBit {j : Nat} (hj : j < 8 * chs.length) :
    (chs.getD (j / 8) 0).getLsbD (7 - j % 8) = (wordOfBytes chs.reverse).testBit (8 * chs.length - 1 - j) := by
  have hbyte : (8 * chs.length - 1 - j) / 8 = chs.length - 1 - j / 8 := by omega
  have hbit : (8 * chs.length - 1 - j) % 8 = 7 - j % 8 := by omega
  have hchannel : chs.reverse.getD (chs.length - 1 - j / 8) 0 = chs.getD (j / 8) 0 := by
    rw [List.getD_eq_getElem?_getD, List.getElem?_reverse (by omega), List.getD_eq_getElem?_getD]
    congr 2
    omega
  rw [testBit_wordOfBytes, hbyte, hbit, hchannel]

end SerialBits

/-- Settles O5: the channels of the build in wire order, and each serial bit's compare value. -/
theorem encodeIsTheSerialBits : Obligations.EncodeIsTheSerialBits := by
  unfold Obligations.EncodeIsTheSerialBits
  intro c color ch
  have hch : channels c color = ch := by
    unfold channels ch
    cases c.params.order <;> cases c.params.hasWhite <;> rfl
  have hlen : c.bpl = 8 * ch.length := by rw [← hch, length_channels, Config.bpl]
  refine ⟨length_encodeColor c color, hlen, fun j hj => ?_⟩
  rw [encodeColor, hch]
  exact compareRun_serialBits_getElem? c ch (hlen ▸ hj)

section LedWords
/-! A pure row that answers the compare run of an LED word (R92, R94, R177). -/

variable {s : State}

/-- The row answers the bits of this word of `n` bits from the top down, and changes nothing else. -/
abbrev AnswersBits (i : Instr) (s : State) (n word : Nat) : Prop :=
  ∃ t, exec i s = .next t ∧ t = { s with ret := t.ret } ∧ t.ret.length = n ∧
    ∀ j, j < n → t.ret[j]? = some (if word.testBit (n - 1 - j) = true then s.cfg.table.t1h else s.cfg.table.t0h)

theorem answersBits_of_answer {i : Instr} (chs : List Byte) (hl : Live s)
    (hi : exec i s = answer (compareRun s.cfg (serialBits chs)) s) :
    AnswersBits i s (8 * chs.length) (wordOfBytes chs.reverse) := by
  refine ⟨_, hi.trans (answer_of_ok hl.1 hl.2), rfl, by simp, fun j hj => ?_⟩
  rw [← getLsbD_channel_eq_testBit chs hj]
  exact compareRun_serialBits_getElem? s.cfg chs hj

theorem wordOfBytes_reverse_three (x y z : Byte) :
    wordOfBytes [x, y, z].reverse = x.toNat * 2 ^ 16 + y.toNat * 2 ^ 8 + z.toNat := by
  simp only [List.reverse_cons, List.reverse_nil, List.nil_append, List.cons_append, wordOfBytes]
  omega

theorem wordOfBytes_reverse_four (x y z u : Byte) :
    wordOfBytes [x, y, z, u].reverse = x.toNat * 2 ^ 24 + y.toNat * 2 ^ 16 + z.toNat * 2 ^ 8 + u.toNat := by
  simp only [List.reverse_cons, List.reverse_nil, List.nil_append, List.cons_append, wordOfBytes]
  omega

end LedWords

/-- Settles O10: each row answers the compare run of its channels, which are the bytes of its word from the top down. -/
theorem ledWordsAnswerTheirBits : Obligations.LedWordsAnswerTheirBits := by
  unfold Obligations.LedWordsAnswerTheirBits
  intro s g r b w hl
  refine ⟨?_, ?_, ?_, ?_⟩
  · rw [← wordOfBytes_reverse_three]
    exact answersBits_of_answer [g, r, b] hl rfl
  · rw [← wordOfBytes_reverse_three]
    exact answersBits_of_answer [r, g, b] hl rfl
  · rw [← wordOfBytes_reverse_four]
    exact answersBits_of_answer [g, r, b, w] hl rfl
  · rw [← wordOfBytes_reverse_four]
    exact answersBits_of_answer [r, g, b, w] hl rfl

section Frames
/-! The LEDs' compare runs one after another, read by position (R98). -/

variable {c : Config} {m : Memory Color} {n : Nat}

theorem length_ledRun {i : Nat} (h : (m.read i).isSome = true) : (ledRun c m i).length = c.bpl := by
  obtain ⟨color, hc⟩ := Option.isSome_iff_exists.1 h
  rw [ledRun, hc]
  exact length_encodeColor c color

/-- The compare value at position `p` of LEDs sent for ever. -/
def ledValue (c : Config) (m : Memory Color) (p : Nat) : CompareWord := (ledRun c m (p / c.bpl)).getD (p % c.bpl) 0

theorem frameValue_of_led {p : Nat} (hp : p < n * c.bpl) : frameValue c m n p = ledValue c m p := if_pos hp

theorem ledRun_eq_values {i : Nat} (h : (m.read i).isSome = true) :
    ledRun c m i = (List.range c.bpl).map (ledValue c m ∘ (i * c.bpl + ·)) := by
  refine List.ext_getElem (by simp [length_ledRun h]) fun j hj _ => ?_
  have hjb : j < c.bpl := length_ledRun h ▸ hj
  have hdiv : (i * c.bpl + j) / c.bpl = i := by
    rw [Nat.mul_comm, Nat.mul_add_div (bpl_pos c), Nat.div_eq_of_lt hjb, Nat.add_zero]
  have hmod : (i * c.bpl + j) % c.bpl = j := by
    rw [Nat.mul_comm, Nat.mul_add_mod, Nat.mod_eq_of_lt hjb]
  rw [List.getElem_map, List.getElem_range, Function.comp_apply, ledValue, hdiv, hmod, List.getD_eq_getElem _ _ hj]

theorem ledRuns_eq_values (h : ∀ i, i < n → (m.read i).isSome = true) :
    (List.range n).flatMap (ledRun c m) = (List.range (n * c.bpl)).map (ledValue c m) := by
  induction n with
  | zero => simp
  | succ n ih =>
    rw [List.range_succ, List.flatMap_append, ih fun i hi => h i (by omega), List.flatMap_singleton,
      ledRun_eq_values (h n (by omega)), Nat.succ_mul, List.range_add, List.map_append, List.map_map]

end Frames

/-- Settles O12: the LEDs fill the positions below `n * BPL`, and the pause the rest of the frame. -/
theorem frameIsItsValues : Obligations.FrameIsItsValues := by
  unfold Obligations.FrameIsItsValues
  intro c m n h
  have hlen : c.frameLen n = n * c.bpl + c.pauseSlots n := by
    have := leds_and_pause_le_frameLen c n
    unfold Config.pauseSlots
    omega
  have hleds : (List.range (n * c.bpl)).map (frameValue c m n) = (List.range (n * c.bpl)).map (ledValue c m) :=
    List.map_congr_left fun p hp => frameValue_of_led (List.mem_range.1 hp)
  have hpause : (List.range (c.pauseSlots n)).map (frameValue c m n ∘ (n * c.bpl + ·)) =
      List.replicate (c.pauseSlots n) 0 :=
    List.eq_replicate_iff.2 ⟨by simp, fun v hv => by
      obtain ⟨p, -, rfl⟩ := List.mem_map.1 hv
      exact frameValue_of_pause (Nat.le_add_right _ p)⟩
  rw [hlen, List.range_add, List.map_append, List.map_map, hleds, hpause, ← ledRuns_eq_values h, frame]

/-- Settles O8: `0 < T0H < T1H` in a valid configuration (R11). -/
theorem compareValuesReadBack : Obligations.CompareValuesReadBack := by
  unfold Obligations.CompareValuesReadBack
  intro c hv
  obtain ⟨-, h0, h01, -⟩ := (Config.valid_iff c).1 hv
  have ht0 : c.table.t0h ≠ 0 := by omega
  have ht1 : c.table.t1h ≠ 0 := by omega
  have ht10 : c.table.t1h ≠ c.table.t0h := by omega
  refine ⟨fun y => ?_, fun v hz hv0 hv1 => by simp [compareSymbol, hz, hv0, hv1]⟩
  cases y with
  | bit0 => simp [compareSymbol, symbolCompare, ht0]
  | bit1 => simp [compareSymbol, symbolCompare, ht1, ht10]
  | pause => rfl

/-- Settles O9: the three rows are pure, and each answers its symbol's compare value. -/
theorem symbolRowsAnswer : Obligations.SymbolRowsAnswer := by
  unfold Obligations.SymbolRowsAnswer
  exact fun s hl => ⟨answer_of_ok hl.1 hl.2, answer_of_ok hl.1 hl.2, answer_of_ok hl.1 hl.2⟩

theorem exec_encode (color : Color) (s : State) :
    exec (.encode color) s = answer (compareRun s.cfg (serialBits (channels s.cfg color))) s := rfl

/-- Settles O11: the channels of the build's variant, in wire order, are those of its LED word. -/
theorem ledWordIsTheBuildsEncoding : Obligations.LedWordIsTheBuildsEncoding := by
  unfold Obligations.LedWordIsTheBuildsEncoding
  intro s g r b w
  refine ⟨fun ho hw => ?_, fun ho hw => ?_, fun ho hw => ?_, fun ho hw => ?_⟩
  · rw [exec_encode, channels, ho, hw]; rfl
  · rw [exec_encode, channels, ho, hw]; rfl
  · rw [exec_encode, channels, ho, hw]; rfl
  · rw [exec_encode, channels, ho, hw]; rfl

end Sys2Proof.Machine
end

section
/-! PROOFS. The family of `30_encoding.md`, its fourth part: the commands (R100 to R109, R161, R233), refused, in two
steps, and taken. -/

namespace Sys2Proof.Machine

section Commands
/-! What the guards of a command stop, and what they let through (R104, R105, R232). -/

variable {s : State} {k : Host.Outcome State Fault Refusal}

theorem command_of_interrupt (hl : Live s) (hi : s.issuer = .interrupt) :
    command s k = .refused .commandFromInterrupt := by
  rw [command, live_of_ok hl.1 hl.2, hi]

/-- From interrupt context the guard of every command answers, before `initialised` is looked at (R105). -/
theorem exec_command_of_interrupt {i : Instr} (hl : Live s) (hi : s.issuer = .interrupt) (hc : i.isCommand = true) :
    exec i s = .refused .commandFromInterrupt := by
  cases i with
  | init | setLed | setAllLeds | refresh => exact command_of_interrupt hl hi
  | _ => cases hc

theorem readyCommand_of_uninitialised (hl : Live s) (hi : s.issuer = .thread) (hr : s.initialised = false) :
    readyCommand s k = .refused .notInitialised := by
  rw [readyCommand, command_of_ok hl.1 hl.2 hi, hr]
  rfl

theorem exec_init_of_initialised (h : Ready s) : exec .init s = .refused .alreadyInitialised := by
  obtain ⟨hl, hi, hr⟩ := h
  exact (command_of_ok hl.1 hl.2 hi).trans (if_pos hr)

/-- The guards of a command look at the state alone: they let every meaning through, or answer the same without it. -/
theorem readyCommand_cases (s : State) : (∀ k, readyCommand s k = k) ∨ ∃ o, ∀ k, readyCommand s k = o := by
  unfold readyCommand command live
  split
  · split
    · split
      · split
        · exact .inl fun _ => rfl
        · exact .inr ⟨_, fun _ => rfl⟩
      · exact .inr ⟨_, fun _ => rfl⟩
    · exact .inr ⟨_, fun _ => rfl⟩
  · exact .inr ⟨_, fun _ => rfl⟩

theorem exec_refresh_of_idle {n : Nat} (h : Ready s) (hb : s.busy = false) :
    exec (.refresh n) s = settle (refreshNow n { s with held := none }) := by
  obtain ⟨hl, hi, hr⟩ := h
  exact (readyCommand_of_ok hl.1 hl.2 hi hr).trans (refreshOrHold_of_idle hb)

/-- Where nothing else is requested and no service is due, the refresh APP waits at is the next step (R205; log 4). -/
theorem step_of_held {n : Nat} (hi : s.issuer = .thread) (hs : s.script = []) (hh : s.held = some n)
    (hb : s.busy = false) (hht : s.htFlag = false) (htc : s.tcFlag = false) : step s = exec (.refresh n) s := by
  have heager : eagerAction s = .run (.refresh n) { s with issuer := .thread } := by
    unfold eagerAction pendingFlag refreshEnabled
    rw [hh, hb, hht, htc]
    rfl
  rw [step_of_run ((nextAction_of_empty hs).trans heager), ← hi]

end Commands

section SetAllLeds
/-! `set_all_leds` with its flag is the fill, and then APP stands at the refresh (R161; log 17). -/

variable {s f : State} {color : Color} {count : Nat}

theorem exec_setAllLeds (color : Color) (count : Nat) (flag : Bool) (s : State) :
    exec (.setAllLeds color count flag) s = readyCommand s (settle (setAllLedsBody color count flag s)) := rfl

theorem setAllLedsBody_false : setAllLedsBody color count false s = fillAll color count s := bind_ok_right _

theorem setAllLedsBody_true :
    setAllLedsBody color count true s = (fillAll color count s).map (·.waitingAt count) := by
  unfold setAllLedsBody
  cases fillAll color count s <;> rfl

theorem setAllLeds_true_of_next (h : exec (.setAllLeds color count false) s = .next f) :
    exec (.setAllLeds color count true) s = .next (f.waitingAt count) := by
  obtain ⟨⟨⟨hv, hf⟩, hi, hr⟩, -⟩ := exec_setAllLeds_next h
  rw [exec_setAllLeds, readyCommand_of_ok hv hf hi hr, setAllLedsBody_false, settle_eq_next] at h
  rw [exec_setAllLeds, readyCommand_of_ok hv hf hi hr, setAllLedsBody_true, h]
  rfl

/-- Where the fill does not complete, the flag makes no difference. -/
theorem setAllLeds_true_of_stopped (h : ∀ t, exec (.setAllLeds color count false) s ≠ .next t) :
    exec (.setAllLeds color count true) s = exec (.setAllLeds color count false) s := by
  simp only [exec_setAllLeds, setAllLedsBody_false, setAllLedsBody_true] at h ⊢
  obtain hpass | ⟨o, hstop⟩ := readyCommand_cases s
  · rw [hpass] at h ⊢
    rw [hpass]
    cases hfill : fillAll color count s with
    | ok t => exact absurd (by rw [hfill]; rfl) (h t)
    | error r => rfl
  · rw [hstop, hstop]

theorem setAllLeds_keeps_ready {flag : Bool} (h : exec (.setAllLeds color count flag) s = .next f) : Ready f := by
  obtain ⟨⟨⟨hv, hf⟩, hi, hr⟩, a, filled, -, rfl, rfl⟩ := exec_setAllLeds_next h
  cases flag <;> exact ⟨⟨by simp [hv], by simp [hf]⟩, by simp [hi], by simp [hr]⟩

end SetAllLeds

/-- Settles O20: the flag adds the wait after a fill that completes; from there the eager schedule takes the refresh,
which forgets the wait. -/
theorem setAllLedsWithRefreshIsFillThenRefresh : Obligations.SetAllLedsWithRefreshIsFillThenRefresh := by
  unfold Obligations.SetAllLedsWithRefreshIsFillThenRefresh
  intro s color count
  refine ⟨fun f h => ⟨setAllLeds_true_of_next h, fun hb hht htc hs => ?_⟩, fun r h => ?_, fun r h => ?_⟩
  · have hready := setAllLeds_keeps_ready h
    have ⟨_, hi, _⟩ := hready
    rw [step_of_held (s := { f with held := some count }) hi hs rfl hb hht htc, exec_refresh_of_idle hready hb]
    exact exec_refresh_of_idle (s := { f with held := some count }) hready hb
  · exact (setAllLeds_true_of_stopped (by simp [h])).trans h
  · exact (setAllLeds_true_of_stopped (by simp [h])).trans h

/-- Settles O27: with `busy = 0` the refresh is taken, and `refreshNow_completes` says what it leaves. -/
theorem refreshArmsTheFrame : Obligations.RefreshArmsTheFrame := by
  unfold Obligations.RefreshArmsTheFrame
  intro s a nLeds hready hb ha hfull
  obtain ⟨t, hrefresh, hown, hcopy, hscratch, hframe⟩ :=
    refreshNow_completes (s := { s with held := none }) (n := nLeds) ha hfull
  have hexec : exec (.refresh nLeds) s = .next t := by rw [exec_refresh_of_idle hready hb, hrefresh, settle_ok]
  exact ⟨t, hexec, hown, hcopy, hscratch, by rw [hframe]; rfl⟩

/-- Settles O22: the guards of the commands, one by one. -/
theorem misuseIsRefused : Obligations.MisuseIsRefused := by
  unfold Obligations.MisuseIsRefused
  intro s index count color flag hl
  refine ⟨fun hi hr => ?_, fun hi hr => exec_init_of_initialised ⟨hl, hi, hr⟩, fun hi i hc => ?_⟩
  · exact ⟨readyCommand_of_uninitialised hl hi hr, readyCommand_of_uninitialised hl hi hr,
      readyCommand_of_uninitialised hl hi hr⟩
  · exact ⟨_, exec_command_of_interrupt hl hi hc, fun _ => rfl⟩

end Sys2Proof.Machine
end

section
/-! PROOFS. The family of `40_timing_table.md`: rounding up and to the nearest (R120), the formulas of the Timing Table
(R121 to R124), and the length of a frame and of its pause (R126, R127). -/

namespace Sys2Proof.Machine

section Rounding
/-! The two roundings of R120 by what they bound. -/

variable {a b : Nat}

theorem mul_roundDiv_le (a b : Nat) : 2 * b * roundDiv a b ≤ 2 * a + b := Nat.mul_div_le _ _

theorem lt_mul_roundDiv_succ (a : Nat) (hb : 0 < b) : 2 * a + b < 2 * b * (roundDiv a b + 1) :=
  Nat.lt_mul_div_succ _ (by omega)

/-- At half a unit the tie already goes up to 1. -/
theorem roundDiv_pos (hb : 0 < b) (h : b ≤ 2 * a) : 0 < roundDiv a b :=
  Nat.div_pos (by omega) (by omega)

/-- The model's `ceil` is Mathlib's ceiling division, so it is below exactly the integers that are not below `a / b`. -/
theorem ceilDiv_le_iff (hb : 0 < b) {k : Nat} : ceilDiv a b ≤ k ↔ a ≤ b * k := by
  have hceil : ceilDiv a b = a ⌈/⌉ b := (Nat.ceilDiv_eq_add_pred_div a b).symm
  rw [hceil, ceilDiv_le_iff_le_mul hb]

theorem le_mul_ceilDiv (a : Nat) (hb : 0 < b) : a ≤ b * ceilDiv a b := (ceilDiv_le_iff hb).1 le_rfl

theorem ceilDiv_pos (hb : 0 < b) (ha : 0 < a) : 0 < ceilDiv a b :=
  Nat.pos_of_mul_pos_left (ha.trans_le (le_mul_ceilDiv a hb))

/-- A whole number of units more is rounded up to as many more. -/
theorem ceilDiv_add_mul (a k : Nat) (hb : 0 < b) : ceilDiv (a + b * k) b = ceilDiv a b + k := by
  rw [ceilDiv, ceilDiv, ← Nat.add_mul_div_left _ _ hb]
  congr 1
  omega

end Rounding

/-- Settles O1: the quotients of `roundDiv` and `ceilDiv` bounded on both sides. -/
theorem roundIsHalfUpAndCeilIsLeast : Obligations.RoundIsHalfUpAndCeilIsLeast := by
  unfold Obligations.RoundIsHalfUpAndCeilIsLeast
  exact fun a b hb => ⟨mul_roundDiv_le a b, lt_mul_roundDiv_succ a hb, le_mul_ceilDiv a hb,
    fun _ => (ceilDiv_le_iff hb).2⟩

/-- The parameters that R8 makes positive, one by one. -/
theorem positive_iff (p : Params) : p.positive = true ↔
    0 < p.clkHz ∧ 0 < p.periodNs ∧ 0 < p.t0hNs ∧ 0 < p.t1hNs ∧ 0 < p.pauseNs := by
  simp [Params.positive, and_assoc]

/-- From half a tick on, the rounded period is at least one tick and R121 subtracts 1 from it without truncation. -/
theorem periodTicks_succ {p : Params} (h : 500000000 ≤ p.clkHz * p.periodNs) :
    p.periodTicks + 1 = roundDiv (p.clkHz * p.periodNs) 1000000000 :=
  Nat.sub_add_cancel (roundDiv_pos (by decide) (by omega))

/-- Settles O2: each entry of the table is a `roundDiv` or a `ceilDiv` of the parameters, bounded as in O1. -/
theorem timingTableFollowsTheFormulas : Obligations.TimingTableFollowsTheFormulas := by
  unfold Obligations.TimingTableFollowsTheFormulas
  intro p hp hhalf c
  obtain ⟨-, hperiod, -, -, hpause⟩ := (positive_iff p).1 hp
  have hticks : c.table.periodTicks + 1 = roundDiv (p.clkHz * p.periodNs) 1000000000 := periodTicks_succ hhalf
  refine ⟨?_, ⟨mul_roundDiv_le _ _, lt_mul_roundDiv_succ _ hperiod⟩,
    ⟨mul_roundDiv_le _ _, lt_mul_roundDiv_succ _ hperiod⟩,
    ceilDiv_pos hperiod hpause, le_mul_ceilDiv _ hperiod, fun _ => (ceilDiv_le_iff hperiod).2⟩
  rw [show c.table.periodTicks + 2 = c.table.periodTicks + 1 + 1 from rfl, hticks]
  exact ⟨mul_roundDiv_le _ _, lt_mul_roundDiv_succ _ (by decide)⟩

section Pause
/-! `frame_len(n)` is the first multiple of `SCRATCH_LEN` from the LEDs and the minimum pause on (R126), and
`pause_slots(n)` is what it leaves after the LEDs (R127). -/

variable (c : Config) (n : Nat)

theorem frameLen_le_of_dvd {k : Nat} (hk : c.scratchLen ∣ k) (h : n * c.bpl + c.table.pauseMinSlots ≤ k) :
    c.frameLen n ≤ k := by
  obtain ⟨m, rfl⟩ := hk
  exact Nat.mul_le_mul_left _ ((ceilDiv_le_iff (scratchLen_pos c)).2 h)

/-- One pass of the scratch buffer less would be too short. -/
theorem frameLen_lt : c.frameLen n < n * c.bpl + c.table.pauseMinSlots + c.scratchLen := by
  by_contra hge
  have hpos := scratchLen_pos c
  have hleast := frameLen_le_of_dvd c n (Nat.dvd_sub (scratchLen_dvd_frameLen c n) dvd_rfl) (by omega)
  omega

theorem frameLen_eq_leds_add_pause : c.frameLen n = n * c.bpl + c.pauseSlots n :=
  (Nat.add_sub_cancel' (Nat.le_of_add_right_le (leds_and_pause_le_frameLen c n))).symm

theorem pauseMinSlots_le_pauseSlots : c.table.pauseMinSlots ≤ c.pauseSlots n :=
  Nat.le_sub_of_add_le' (leds_and_pause_le_frameLen c n)

theorem pauseSlots_lt : c.pauseSlots n < c.table.pauseMinSlots + c.scratchLen := by
  have hlt := frameLen_lt c n
  rw [frameLen_eq_leds_add_pause] at hlt
  omega

theorem bpl_dvd_pauseSlots : c.bpl ∣ c.pauseSlots n :=
  Nat.dvd_sub (Nat.dvd_of_mod_eq_zero (frameLen_mod_bpl c n)) (Nat.dvd_mul_left _ _)

/-- Two LEDs are one pass of the scratch buffer, so they lengthen the frame by just their own slots. -/
theorem frameLen_add_two_mul (j : Nat) : c.frameLen (n + 2 * j) = c.frameLen n + 2 * j * c.bpl := by
  have hpasses : (n + 2 * j) * c.bpl + c.table.pauseMinSlots =
      n * c.bpl + c.table.pauseMinSlots + c.scratchLen * j := by rw [scratchLen_eq]; ring
  rw [Config.frameLen, hpasses, ceilDiv_add_mul _ _ (scratchLen_pos c), Config.frameLen, scratchLen_eq]
  ring

theorem pauseSlots_mod_two : c.pauseSlots (n % 2) = c.pauseSlots n := by
  have hlen := frameLen_add_two_mul c (n % 2) (n / 2)
  have hleds := Nat.add_mul (n % 2) (2 * (n / 2)) c.bpl
  rw [Nat.mod_add_div] at hlen hleds
  rw [Config.pauseSlots, Config.pauseSlots, hlen, hleds, Nat.add_sub_add_right]

end Pause

/-- Settles O3: a multiple of `SCRATCH_LEN` by its definition, and least because the ceiling is. -/
theorem frameLenIsTheLeastMultiple : Obligations.FrameLenIsTheLeastMultiple := by
  unfold Obligations.FrameLenIsTheLeastMultiple
  exact fun c n => ⟨frameLen_mod_scratchLen c n, leds_and_pause_le_frameLen c n,
    fun _ hk => frameLen_le_of_dvd c n (Nat.dvd_of_mod_eq_zero hk)⟩

/-- Settles O4: `BPL` divides both the frame and its LEDs, and two LEDs more leave the pause as it is. -/
theorem pauseSlotsProperties : Obligations.PauseSlotsProperties := by
  unfold Obligations.PauseSlotsProperties
  intro c n hv
  obtain ⟨-, -, -, -, -, hpause, -, -⟩ := (Config.valid_iff c).1 hv
  have hmin := pauseMinSlots_le_pauseSlots c n
  have hdvd := bpl_dvd_pauseSlots c n
  exact ⟨frameLen_eq_leds_add_pause c n, hmin, Nat.mod_eq_zero_of_dvd hdvd,
    Nat.le_of_dvd (hpause.trans hmin) hdvd, pauseSlots_lt c n,
    fun m hm => by rw [← pauseSlots_mod_two c m, hm, pauseSlots_mod_two]⟩

end Sys2Proof.Machine
end

section
/-! PROOFS. The family of `41_pwm_carrier.md`: the level of the wire and how the pin makes it (R144, R150, R309), one
tick (R143, R147), the ticks of one period (R145, R148), and the steps that are not enabled (R143, R197, R199, R271). -/

namespace Sys2Proof.Machine

section Wire
/-! The output function of R144 and the pin of R150. -/

variable {s : State}

theorem lineLevel_on (cnt ccr : Nat) : lineLevel true cnt ccr = if cnt < ccr then .high else .low := by
  simp [lineLevel]

theorem line_of_timer_off (hi : s.initialised = true) (ht : s.timEn = false) : s.line = .val .low := by
  simp [State.line, hi, ht]

theorem line_of_timer_on {cnt : Nat} {ccr : CompareWord} (hi : s.initialised = true) (ht : s.timEn = true)
    (hcnt : s.cnt = .val cnt) (hccr : s.ccr = .val ccr) : s.line = .val (lineLevel true cnt ccr) := by
  simp [State.line, hi, ht, hcnt, hccr]

theorem drive_of_line {level : Level} (h : s.line = .val level) : s.drive = driveFor s.outMode level := by
  simp [State.drive, h]

theorem driveFor_pushPull (level : Level) :
    driveFor .pushPull level = .val (if level = .high then .high else .low) := by cases level <;> rfl

theorem driveFor_openDrain (level : Level) :
    driveFor .openDrain level = .val (if level = .high then .released else .low) := by cases level <;> rfl

/-- With the external pull-up both output modes give the wire its level (R150). -/
theorem wireLevel_pulledUp {mode : OutMode} {level : Level} {d : Drive} (h : driveFor mode level = .val d) :
    wireLevel true d = level := by
  cases mode with
  | unconfigured => cases h
  | pushPull => cases level <;> cases h <;> rfl
  | openDrain => cases level <;> cases h <;> rfl

/-- A driven wire needs no pull-up. -/
theorem wireLevel_pushPull {level : Level} {d : Drive} (h : driveFor .pushPull level = .val d) :
    wireLevel false d = level := by cases level <;> cases h <;> rfl

/-- Without the pull-up an open-drain pin never makes the wire high (R309). -/
theorem wireLevel_openDrain {level : Level} {d : Drive} (h : driveFor .openDrain level = .val d) :
    wireLevel false d = .low := by cases level <;> cases h <;> rfl

end Wire

section Tick
/-! One tick with the timer on, its three registers holding values (R143, R147). -/

variable {s : State} {cnt arr : Nat} {ccr : CompareWord}

theorem exec_slot_of_enabled (hl : Live s) (ht : s.timEn = true) (hd : s.dmaEn = true) :
    exec .slot s = settle (beat s) :=
  whenEnabled_of_enabled hl.1 hl.2 (Bool.and_eq_true_iff.2 ⟨ht, hd⟩)

theorem exec_tick_of_enabled (hl : Live s) (ht : s.timEn = true) : exec .tick s = settle (tickBody s) :=
  whenEnabled_of_enabled hl.1 hl.2 ht

variable (hl : Live s) (ht : s.timEn = true) (hcnt : s.cnt = .val cnt) (harr : s.arr = .val arr)
  (hccr : s.ccr = .val ccr)
include hl ht hcnt harr hccr

/-- Inside the period a tick emits the level and counts (R143). -/
theorem exec_tick_counts (hne : cnt ≠ arr) : exec .tick s =
    .next { s with levels := s.levels ++ [if cnt < ccr then .high else .low], cnt := .val (cnt + 1) } := by
  rw [exec_tick_of_enabled hl ht]
  simp [tickBody, hcnt, hccr, harr, ht, hne, lineLevel_on]

/-- At the period's end a tick emits the level, returns to 0 and is the update event (R143, R147). -/
theorem exec_tick_wraps (heq : cnt = arr) : exec .tick s = settle (updateEvent
    { s with levels := s.levels ++ [if cnt < ccr then .high else .low], cnt := .val 0 }) := by
  rw [exec_tick_of_enabled hl ht]
  simp [tickBody, hcnt, hccr, harr, ht, heq, lineLevel_on]

/-- The beat of a wrapping tick is the beat of a `slot` (R147, R197). -/
theorem exec_tick_is_slot (hd : s.dmaEn = true) (heq : cnt = arr) : exec .tick s = exec .slot
    { s with levels := s.levels ++ [if cnt < ccr then .high else .low], cnt := .val 0 } := by
  rw [exec_tick_wraps hl ht hcnt harr hccr heq, updateEvent, if_pos hd]
  exact (exec_slot_of_enabled (s := { s with levels := _, cnt := .val 0 }) hl ht hd).symm

end Tick

/-- Settles O37: the period's end and the DMA decide between the three cases of a tick. -/
theorem tickCountsAndRequests : Obligations.TickCountsAndRequests := by
  unfold Obligations.TickCountsAndRequests
  intro s cnt arr ccr hl ht hcnt harr hccr
  refine ⟨exec_tick_counts hl ht hcnt harr hccr, fun heq hd => ?_,
    fun heq hd => exec_tick_is_slot hl ht hcnt harr hccr hd heq⟩
  rw [exec_tick_wraps hl ht hcnt harr hccr heq]
  simp [updateEvent, hd]

section Period
/-! The ticks of one period, counted from its start (R145, R148). -/

variable {s t : State} {arr : Nat} {ccr : CompareWord}

/-- What `k` ticks emit from the start of a period: high while the count is below `ccr`, then low (R145). -/
def pulseStart (ccr k : Nat) : List Level :=
  List.replicate (min ccr k) .high ++ List.replicate (k - ccr) .low

theorem pulseStart_succ (ccr k : Nat) :
    pulseStart ccr (k + 1) = pulseStart ccr k ++ [if k < ccr then .high else .low] := by
  unfold pulseStart
  obtain hlt | hge := Nat.lt_or_ge k ccr
  · have hnone : k + 1 - ccr = 0 ∧ k - ccr = 0 := by omega
    simp [hlt, hlt.le, hnone, List.replicate_succ']
  · have hcount : k + 1 - ccr = k - ccr + 1 := Nat.succ_sub hge
    simp [hge.not_gt, hge, Nat.le_succ_of_le hge, hcount, List.replicate_succ']

/-- One more execution after `k` that completed. -/
theorem repeated_succ_of_next {i : Instr} {k : Nat} (h : repeated i k s = .next t) :
    repeated i (k + 1) s = exec i t := by
  induction k generalizing s with
  | zero =>
    obtain rfl : s = t := Host.Outcome.next.inj h
    simp only [repeated]
    cases exec i s <;> rfl
  | succ k ih =>
    rw [repeated] at h ⊢
    cases he : exec i s with
    | next u =>
      rw [he] at h
      exact ih h
    | fault r => rw [he] at h; cases h
    | refused r => rw [he] at h; cases h

variable (hl : Live s) (ht : s.timEn = true) (hcnt : s.cnt = .val 0) (harr : s.arr = .val arr)
  (hccr : s.ccr = .val ccr)
include hl ht hcnt harr hccr

/-- Up to the period's end the ticks count and emit, and change nothing else (R143). -/
theorem repeated_tick_counts {k : Nat} (hk : k ≤ arr) : repeated .tick k s =
    .next { s with levels := s.levels ++ pulseStart ccr k, cnt := .val k } := by
  induction k with
  | zero => simp [repeated, pulseStart, ← hcnt]
  | succ k ih =>
    have htick := exec_tick_counts (s := { s with levels := s.levels ++ pulseStart ccr k, cnt := .val k })
      hl ht rfl harr hccr (Nat.ne_of_lt hk)
    rw [repeated_succ_of_next (ih (Nat.le_of_succ_le hk)), htick, pulseStart_succ, List.append_assoc]

end Period

/-- Settles O38: `arr` ticks count up to the period's end, and the next one is the `slot`. -/
theorem onePeriodOfTicksIsOneSlot : Obligations.OnePeriodOfTicksIsOneSlot := by
  unfold Obligations.OnePeriodOfTicksIsOneSlot
  intro s arr ccr hl ht hd hcnt harr hccr
  have hlast := exec_tick_is_slot (s := { s with levels := s.levels ++ pulseStart ccr arr, cnt := .val arr })
    hl ht rfl harr hccr hd rfl
  rw [repeated_succ_of_next (repeated_tick_counts hl ht hcnt harr hccr le_rfl), hlast, List.append_assoc,
    ← pulseStart_succ, ← hcnt]
  rfl

section Disabled
/-! The context alone rules out an inner procedure (R271). -/

variable {s : State}

theorem not_armEnabled_of_interrupt (hi : s.issuer = .interrupt) : armEnabled s = false := by
  refine Bool.eq_false_iff.2 fun h => ?_
  obtain ⟨hrefresh, -⟩ := armEnabled_eq_true.1 h
  obtain ⟨hthread, -⟩ := insideRefresh_eq_true.1 hrefresh
  simp [hi] at hthread

theorem not_disarmEnabled_of_thread (hi : s.issuer = .thread) : disarmEnabled s = false := by
  refine Bool.eq_false_iff.2 fun h => ?_
  obtain ⟨hservice, -⟩ := disarmEnabled_eq_true.1 h
  obtain ⟨hinterrupt, -⟩ := insideService_eq_true.1 hservice
  simp [hi] at hinterrupt

end Disabled

/-- Settles O36: each premise makes the step's enabling condition false. -/
theorem disabledStepsChangeNothing : Obligations.DisabledStepsChangeNothing := by
  unfold Obligations.DisabledStepsChangeNothing
  rintro s ⟨hv, hf⟩
  refine ⟨fun ht => ⟨?slotWithoutTimer, ?tick⟩, fun hd => ?slotWithoutDma, fun h => ?onHalfTransfer,
    fun h => ?onComplete, fun h => ?fillHalf, fun h => ?arm, fun h => ?disarm⟩
  case slotWithoutTimer => exact whenEnabled_of_disabled hv hf (by simp [slotEnabled, ht])
  case tick => exact whenEnabled_of_disabled hv hf ht
  case slotWithoutDma => exact whenEnabled_of_disabled hv hf (by simp [slotEnabled, hd])
  case onHalfTransfer => exact whenEnabled_of_disabled hv hf (serviceEnabled_eq_false.2 h)
  case onComplete => exact whenEnabled_of_disabled hv hf (serviceEnabled_eq_false.2 h)
  case fillHalf => exact whenEnabled_of_disabled hv hf h
  case arm => exact whenEnabled_of_disabled hv hf (h.elim id not_armEnabled_of_interrupt)
  case disarm => exact whenEnabled_of_disabled hv hf (h.elim id not_disarmEnabled_of_thread)

/-- Settles O39: the output function of R144, with the timer off and on. -/
theorem wireIsLowWhileTheTimerIsOff : Obligations.WireIsLowWhileTheTimerIsOff := by
  unfold Obligations.WireIsLowWhileTheTimerIsOff
  intro s cnt ccr hi
  refine ⟨line_of_timer_off hi, fun ht hcnt hccr => ?_⟩
  rw [line_of_timer_on hi ht hcnt hccr, lineLevel_on]

/-- Settles O40: what the pin does for a level in each mode, and the level that gives the wire. -/
theorem outModeSaysHowTheLevelIsMade : Obligations.OutModeSaysHowTheLevelIsMade := by
  unfold Obligations.OutModeSaysHowTheLevelIsMade
  intro s level hline
  rw [drive_of_line hline]
  refine ⟨fun hm => ?_, fun hm => ?_, fun d hd => ⟨wireLevel_pulledUp hd, fun hm => ?_, fun hm => ?_⟩⟩
  · rw [hm, driveFor_pushPull]
  · rw [hm, driveFor_openDrain]
  · exact wireLevel_pushPull (hm ▸ hd)
  · exact wireLevel_openDrain (hm ▸ hd)

end Sys2Proof.Machine
end

section
/-! PROOFS. The family of `42_color_buffer.md`: `set_led` and `set_all_leds` write the writable buffer (R160, R161,
R163), and the refresh of a `set_all_leds` with its flag sends what was filled (R109, R233). -/

namespace Sys2Proof.Machine

section SetLed
/-! `set_led` by its index: one entry of the writable buffer, or nothing (R101, R160). -/

variable {s : State} {index : Nat} {color : Color}

theorem exec_setLed_of_ready (h : Ready s) : exec (.setLed index color) s = settle (setLedBody index color s) := by
  obtain ⟨⟨hv, hf⟩, hi, hr⟩ := h
  exact readyCommand_of_ok hv hf hi hr

theorem exec_setLed_inside {a : BufId} (h : Ready s) (ha : s.active = .val a) (hin : index < s.maxLeds) :
    exec (.setLed index color) s = .next (s.setBuf a.other ((s.buf a.other).write index color)) := by
  have hbody : setLedBody index color s = writeWritable index [color] s := if_pos (decide_eq_true hin)
  rw [exec_setLed_of_ready h, hbody, settle_eq_next, writeWritable_eq_ok]
  exact ⟨a, ha, hin, rfl⟩

theorem exec_setLed_outside (h : Ready s) (hout : s.maxLeds ≤ index) : exec (.setLed index color) s = .next s := by
  have hbody : setLedBody index color s = .ok s := if_neg (by simpa [indexInRange] using hout)
  rw [exec_setLed_of_ready h, hbody, settle_ok]

end SetLed

/-- Settles O18: the index inside and outside the buffer, and the two refusals of a command. -/
theorem setLedWritesOneEntry : Obligations.SetLedWritesOneEntry := by
  unfold Obligations.SetLedWritesOneEntry
  intro s a index color hl
  refine ⟨fun hi hr ha hin => ⟨_, exec_setLed_inside ⟨hl, hi, hr⟩ ha hin, ?_, fun i => ?_⟩,
    fun hi hr hout => exec_setLed_outside ⟨hl, hi, hr⟩ hout, fun hi hr => readyCommand_of_uninitialised hl hi hr,
    fun hi _ => exec_command_of_interrupt hl hi rfl⟩
  · rw [State.setBuf_buf_same]
  · rw [State.setBuf_buf_same, Memory.read_write]
    simp only [eq_comm (a := i)]

section Fill
/-! The fill of `set_all_leds`: the first `min(count, MAX_LEDS)` entries of the writable buffer (R102, R161). -/

/-- The state after the fill, with buffer `a` hardware-owned. -/
abbrev State.ledsFilled (s : State) (a : BufId) (color : Color) (count : Nat) : State :=
  s.setBuf a.other ((s.buf a.other).writeRun 0 (List.replicate (min count s.maxLeds) color))

variable {s : State} {a : BufId} {color : Color} {count : Nat}

theorem ledsFilled_frame :
    s.ledsFilled a color count = s.setBuf a.other ((s.ledsFilled a color count).buf a.other) := by
  rw [State.setBuf_buf_same]

theorem ledsFilled_read (i : Nat) : ((s.ledsFilled a color count).buf a.other).read i =
    if i < min count s.maxLeds then some color else (s.buf a.other).read i := by
  rw [State.setBuf_buf_same, Memory.read_writeRun]
  simp only [Nat.zero_le, true_and, Nat.zero_add, Nat.sub_zero, List.length_replicate]
  split <;> simp [*]

theorem ledsFilled_read_active (i : Nat) : ((s.ledsFilled a color count).buf a).read i = (s.buf a).read i := by
  rw [State.setBuf_other_buf]

theorem exec_setAllLeds_fills (h : Ready s) (ha : s.active = .val a) :
    exec (.setAllLeds color count false) s = .next (s.ledsFilled a color count) := by
  obtain ⟨⟨hv, hf⟩, hi, hr⟩ := h
  rw [exec_setAllLeds, readyCommand_of_ok hv hf hi hr, setAllLedsBody_false, settle_eq_next, fillAll_eq_ok]
  exact ⟨a, ha, rfl⟩

theorem exec_setAllLeds_fills_and_waits (h : Ready s) (ha : s.active = .val a) :
    exec (.setAllLeds color count true) s = .next ((s.ledsFilled a color count).waitingAt count) :=
  setAllLeds_true_of_next (exec_setAllLeds_fills h ha)

end Fill

/-- Settles O19: the fill, entry by entry. -/
theorem setAllLedsFills : Obligations.SetAllLedsFills := by
  unfold Obligations.SetAllLedsFills
  exact fun s a color count hready ha => ⟨_, exec_setAllLeds_fills hready ha, ledsFilled_frame, ledsFilled_read⟩

section FillThenRefresh
/-! What both LED buffers hold after a refresh, and after the fill with the refresh (R74, R161, R233). -/

theorem BufId.forall_iff {p : BufId → Prop} (a : BufId) : (∀ b, p b) ↔ p a ∧ p a.other := by
  refine ⟨fun h => ⟨h a, h a.other⟩, fun ⟨hown, hother⟩ b => ?_⟩
  cases a <;> cases b <;> assumption

variable {s u t : State} {a : BufId} {color : Color} {count i : Nat}

/-- Above `MAX_LEDS` the fill reaches neither buffer. -/
theorem ledsFilled_read_outside (hi : s.maxLeds ≤ i) :
    ∀ b, ((s.ledsFilled a color count).buf b).read i = (s.buf b).read i := by
  rw [BufId.forall_iff a, ledsFilled_read, if_neg (by omega)]
  exact ⟨ledsFilled_read_active i, rfl⟩

variable (hown : t.buf a.other = u.buf a.other) (hcopy : ∀ i, (t.buf a).read i =
  if i < u.maxLeds then (u.buf a.other).read i else (u.buf a).read i)
include hown hcopy

theorem copiedForward_read_inside (hi : i < u.maxLeds) : ∀ b, (t.buf b).read i = (u.buf a.other).read i := by
  rw [BufId.forall_iff a, hcopy, if_pos hi, hown]
  exact ⟨rfl, rfl⟩

theorem copiedForward_read_outside (hi : u.maxLeds ≤ i) : ∀ b, (t.buf b).read i = (u.buf b).read i := by
  rw [BufId.forall_iff a, hcopy, if_neg (by omega), hown]
  exact ⟨rfl, rfl⟩

end FillThenRefresh

/-- Settles O21: APP stands at the refresh after the fill, so it is the next step, and what it arms is the frame of the
filled buffer, copied forward into the other one. -/
theorem setAllLedsWithRefreshCompletes : Obligations.SetAllLedsWithRefreshCompletes := by
  unfold Obligations.SetAllLedsWithRefreshCompletes
  intro s a color count hready ha
  have hexec := exec_setAllLeds_fills_and_waits (color := color) (count := count) hready ha
  have hwaiting := setAllLeds_keeps_ready hexec
  refine ⟨_, hexec, congrArg (·.waitingAt count) ledsFilled_frame, ledsFilled_read, fun hb hht htc hs => ?next,
    fun hb hfull => ?refreshed⟩
  case next =>
    have ⟨_, hi, _⟩ := hwaiting
    exact step_of_held hi (by simpa using hs) rfl (by simpa using hb) (by simpa using hht) (by simpa using htc)
  case refreshed =>
    obtain ⟨t, hrefresh, hown, hcopy, hscratch, hframe⟩ :=
      refreshArmsTheFrame _ a count hwaiting (by simpa using hb) (by simpa using ha) hfull
    have hmax : ((s.ledsFilled a color count).waitingAt count).maxLeds = s.maxLeds := State.setBuf_maxLeds _ _ _
    refine ⟨t, hrefresh, fun i hi b => ?_, fun i hi b => ?_, fun i => ?_, ?_⟩
    · exact (copiedForward_read_inside hown hcopy (by rwa [hmax]) b).trans (ledsFilled_read i)
    · exact (copiedForward_read_outside hown hcopy (by rwa [hmax]) b).trans (ledsFilled_read_outside hi b)
    · rw [hscratch, hown, hmax]
      simp
    · rw [hframe, hmax]
      cases a <;> rfl

end Sys2Proof.Machine
end

section
/-! PROOFS. The family of `43_bit_encoder.md`: the row `encode` (R175, R177), and a Color Value read back from its
compare run, layer by layer: the serial bits from the compare values, the channels from the serial bits, the colour from
the channels (R95, R178). -/

namespace Sys2Proof.Machine

/-- Settles O6: the row is pure. -/
theorem encodeRowAnswersItsRun : Obligations.EncodeRowAnswersItsRun := by
  unfold Obligations.EncodeRowAnswersItsRun
  rintro s color ⟨hv, hf⟩
  exact (exec_encode color s).trans (answer_of_ok hv hf)

section ReadBack
/-! Each layer of `encode` loses nothing (R178). -/

theorem bitSymbol_injective : Function.Injective bitSymbol := by decide

theorem channelBits_injective : Function.Injective channelBits := by
  intro u v h
  refine BitVec.eq_of_getLsbD_eq fun k hk => ?_
  have hbit := congrArg (·[7 - k]?) h
  simpa only [channelBits_getElem? _ (show 7 - k < 8 by omega), Option.some_inj,
    Nat.sub_sub_self (Nat.le_of_lt_succ hk)] using hbit

theorem serialBits_cons (v : Byte) (vs : List Byte) : serialBits (v :: vs) = channelBits v ++ serialBits vs :=
  List.flatMap_cons

/-- Every channel has eight bits, so the serial bits say where a channel ends. -/
theorem serialBits_injective : Function.Injective serialBits := by
  intro us
  induction us with
  | nil =>
    intro vs h
    have hlen := congrArg List.length h
    rw [length_serialBits, length_serialBits, List.length_nil] at hlen
    exact (List.length_eq_zero_iff.1 (by omega)).symm
  | cons u us ih =>
    intro vs h
    cases vs with
    | nil => simpa using congrArg List.length h
    | cons v vs =>
      rw [serialBits_cons, serialBits_cons] at h
      obtain ⟨hhead, htail⟩ := List.append_inj h rfl
      rw [channelBits_injective hhead, ih htail]

variable {c : Config} {x y : Color}

/-- White is a channel in the builds that have it only (R92). -/
theorem channels_eq_iff : channels c x = channels c y ↔
    x.red = y.red ∧ x.green = y.green ∧ x.blue = y.blue ∧ (c.params.hasWhite = true → x.white = y.white) := by
  unfold channels
  cases c.params.order with
  | grb => cases c.params.hasWhite <;> simp [and_left_comm]
  | rgb => cases c.params.hasWhite <;> simp

theorem white_eq_zero_of_wf (h : x.wf false = true) : x.white = 0 := of_decide_eq_true h

/-- The channels hold the whole colour: a build without white has it 0 in every colour (R91, R110). -/
theorem eq_of_channels_eq (hx : x.wf c.params.hasWhite = true) (hy : y.wf c.params.hasWhite = true)
    (h : channels c x = channels c y) : x = y := by
  obtain ⟨hred, hgreen, hblue, hwhite⟩ := channels_eq_iff.1 h
  have hwhite : x.white = y.white := by
    cases hw : c.params.hasWhite with
    | true => exact hwhite hw
    | false =>
      rw [hw] at hx hy
      rw [white_eq_zero_of_wf hx, white_eq_zero_of_wf hy]
  cases x
  cases y
  simp_all only

/-- The symbols of a compare run are those of the serial bits it stands for (R94, R95). -/
theorem compareRun_map_compareSymbol (hv : c.valid = true) (bits : List Bool) :
    (compareRun c bits).map (compareSymbol c) = bits.map fun b => some (bitSymbol b) := by
  obtain ⟨hread, -⟩ := compareValuesReadBack c hv
  rw [compareRun, List.map_map]
  exact List.map_congr_left fun b _ => hread (bitSymbol b)

theorem compareRun_injective (hv : c.valid = true) : Function.Injective (compareRun c) := by
  intro bits bits' h
  have hsymbols := congrArg (List.map (compareSymbol c)) h
  rw [compareRun_map_compareSymbol hv, compareRun_map_compareSymbol hv] at hsymbols
  exact List.map_injective_iff.2 ((Option.some_injective _).comp bitSymbol_injective) hsymbols

end ReadBack

/-- Settles O7: the layers of `encode` are injective one after another, and the first reads back by R95. -/
theorem encodeIsInjective : Obligations.EncodeIsInjective := by
  unfold Obligations.EncodeIsInjective
  intro c x y hv hx hy
  refine ⟨fun h => ?_, compareRun_map_compareSymbol hv _⟩
  have hbits : serialBits (channels c x) = serialBits (channels c y) := compareRun_injective hv h
  exact eq_of_channels_eq hx hy (serialBits_injective hbits)

end Sys2Proof.Machine
end

section
/-! PROOFS. The family of `44_streaming_engine.md`, its first part: the procedures where they are enabled (R193, R196,
R202), the beat and the services one by one (R197, R200, R201), the eager schedule (R205), and the commands with a frame
in flight (R208). -/

namespace Sys2Proof.Machine

variable {s t : State} {a : BufId}

theorem memRead_of_unwritten {α : Type} {size : Nat} {m : Memory α} {i : Nat} (hi : i < size) (hm : m.read i = none) :
    memRead size m i = .error .readUnspecified := by
  rw [memRead, if_pos hi, hm]

/-- `fill_half` faults at an entry never written (R193). -/
theorem fillHalf_of_unwritten {led n w : Nat} (ha : s.active = .val a) (hl : s.ledOff = .val led) (hn : s.nCur = .val n)
    (hw : s.wrPos = .val w) (hlt : led < n) (hin : led < s.maxLeds) (hread : (s.buf a).read led = none) :
    fillHalf s = .error .readUnspecified := by
  simp [fillHalf, fillWithLed, ha, hl, hn, hw, hlt, memRead_of_unwritten hin hread]

/-- Settles O29: `fill_half` where it is enabled is its body, which completes or reads the unwritten entry. -/
theorem fillHalfWritesOneHalf : Obligations.FillHalfWritesOneHalf := by
  unfold Obligations.FillHalfWritesOneHalf
  intro s a led n w hl he
  have hexec : exec .fillHalf s = settle (fillHalf s) := whenEnabled_of_enabled hl.1 hl.2 he
  refine ⟨fun hcan => ?_, fun ha hled hn hw hlt hin hread => ?_⟩
  · obtain ⟨t, hfill, ht⟩ := fillHalf_of_canFill hcan
    exact ⟨t, by rw [hexec, hfill, settle_ok], ht⟩
  · rw [hexec, fillHalf_of_unwritten ha hled hn hw hlt hin hread, settle_error]

/-- Settles O30: `arm` where it is enabled is `State.armed`. -/
theorem armStartsATransfer : Obligations.ArmStartsATransfer := by
  unfold Obligations.ArmStartsATransfer
  exact fun s hl he => ⟨s.armed, whenEnabled_of_enabled hl.1 hl.2 he, rfl⟩

/-- Settles O31: `disarm` where it is enabled is `State.disarmed`. -/
theorem disarmEndsATransfer : Obligations.DisarmEndsATransfer := by
  unfold Obligations.DisarmEndsATransfer
  exact fun s hl he => whenEnabled_of_enabled hl.1 hl.2 he

section Slot
/-! A beat whose read index and scratch word hold values (R197). -/

theorem started_eq (f : Fsm) : started f = if f = .armed then .streaming else f := by cases f <;> rfl

theorem beat_of_read {idx : Nat} {v : CompareWord} (hidx : s.dmaIdx = .val idx) (hin : idx < s.cfg.scratchLen)
    (hread : s.scratch.read idx = some v) :
    beat s = raiseFlags ((idx + 1) % s.cfg.scratchLen) (s.loaded v ((idx + 1) % s.cfg.scratchLen)) := by
  simp [beat, hidx, memRead_eq_ok.2 ⟨hin, hread⟩]

/-- The state with the flag of a source raised (R198). -/
def State.raised (s : State) : IrqSource → State
  | .halfTransfer => { s with htFlag := true }
  | .transferComplete => { s with tcFlag := true }

/-- Raising a flag faults exactly when one is pending (R197, R300). -/
theorem settle_raiseFlag (src : IrqSource) : settle (raiseFlag src s) =
    if s.htFlag = true ∨ s.tcFlag = true then .fault .refillOverrun else .next (s.raised src) := by
  simp only [raiseFlag, State.pending, Bool.or_eq_true]
  split
  · rfl
  · cases src <;> rfl

theorem settle_raiseFlags (idx : Nat) : settle (raiseFlags idx s) =
    if idx = s.cfg.bpl then settle (raiseFlag .halfTransfer s)
    else if idx = 0 then settle (raiseFlag .transferComplete s)
    else .next s := by
  unfold raiseFlags
  rw [apply_ite settle, apply_ite settle]
  rfl

end Slot

/-- Settles O33: the enabled `slot` is the beat, which loads its word and raises the flag of the half it completes. -/
theorem slotTakesOneBeat : Obligations.SlotTakesOneBeat := by
  unfold Obligations.SlotTakesOneBeat
  intro s idx v hl htim hdma hidx hin hread
  rw [exec_slot_of_enabled hl htim hdma, beat_of_read hidx hin hread, settle_raiseFlags, settle_raiseFlag,
    settle_raiseFlag, State.loaded, started_eq]
  rfl

section Services
/-! A service whose flag is pending, in interrupt context (R199, R271). -/

theorem exec_onHalfTransfer_of_pending (hl : Live s) (hi : s.issuer = .interrupt) (hht : s.htFlag = true) :
    exec .onHalfTransfer s = settle (serveHalfTransfer s) :=
  whenEnabled_of_enabled hl.1 hl.2 (serviceEnabled_eq_true.2 ⟨hht, hi⟩)

theorem exec_onComplete_of_pending (hl : Live s) (hi : s.issuer = .interrupt) (htc : s.tcFlag = true) :
    exec .onComplete s = settle (serveComplete s) :=
  whenEnabled_of_enabled hl.1 hl.2 (serviceEnabled_eq_true.2 ⟨htc, hi⟩)

end Services

/-- Settles O34: the service in interrupt context is its body: the flag and `pos`, then the refill. -/
theorem halfTransferServiceRefills : Obligations.HalfTransferServiceRefills := by
  unfold Obligations.HalfTransferServiceRefills
  intro s a led n w p hl hi hht hpos hcan
  obtain ⟨t, hfill, ht⟩ := fillHalf_of_canFill (s := s.acknowledged .halfTransfer p) hcan
  exact ⟨t, by rw [exec_onHalfTransfer_of_pending hl hi hht, serveHalfTransfer_eq_ok.2 ⟨p, hpos, hfill⟩, settle_ok], ht⟩

/-- Settles O35: the service in interrupt context is its body: the flag and `pos`, then the refill or `disarm`. -/
theorem completeServiceRefillsOrDisarms : Obligations.CompleteServiceRefillsOrDisarms := by
  unfold Obligations.CompleteServiceRefillsOrDisarms
  intro s p total hl hi htc hpos htotal
  rw [exec_onComplete_of_pending hl hi htc]
  refine ⟨fun hmore a led n w hcan => ?_, fun hend => ?_⟩
  · obtain ⟨t, hfill, ht⟩ := fillHalf_of_canFill (s := s.acknowledged .transferComplete p) hcan
    exact ⟨t, by rw [serveComplete_eq_ok.2 ⟨p, total, hpos, htotal, .inl ⟨hmore, hfill⟩⟩, settle_ok], ht⟩
  · rw [serveComplete_eq_ok.2 ⟨p, total, hpos, htotal, .inr ⟨hend, rfl⟩⟩, settle_ok]
    rfl

section Eager
/-! The eager schedule, case by case (R205; log 4). -/

theorem eagerAction_of_halfTransfer (hht : s.htFlag = true) :
    eagerAction s = .run .onHalfTransfer { s with issuer := .interrupt } := if_pos hht

theorem eagerAction_of_complete (hht : s.htFlag = false) (htc : s.tcFlag = true) :
    eagerAction s = .run .onComplete { s with issuer := .interrupt } := by
  simp [eagerAction, pendingFlag, hht, htc]

theorem eagerAction_of_held {n : Nat} (hht : s.htFlag = false) (htc : s.tcFlag = false) (hheld : s.held = some n)
    (hb : s.busy = false) : eagerAction s = .run (.refresh n) { s with issuer := .thread } := by
  simp [eagerAction, pendingFlag, refreshEnabled, hht, htc, hheld, hb]

/-- Where no service is due and no refresh can be taken, the engine moves, or nothing does. -/
theorem eagerAction_of_engine (hht : s.htFlag = false) (htc : s.tcFlag = false) (hfree : s.held = none ∨ s.busy = true) :
    eagerAction s = if slotEnabled s = true then .run .slot s else .rest := by
  obtain hheld | hb := hfree
  · simp [eagerAction, pendingFlag, hht, htc, hheld]
  · simp [eagerAction, pendingFlag, refreshEnabled, hht, htc, hb]

theorem step_of_rest (hl : Live s) (h : nextAction s = .rest) : step s = .next s := by
  rw [step, h]
  exact live_of_ok hl.1 hl.2

end Eager

/-- Settles O60: with no request to take the next action is the eager schedule's, case by case. -/
theorem stepFollowsTheEagerSchedule : Obligations.StepFollowsTheEagerSchedule := by
  unfold Obligations.StepFollowsTheEagerSchedule
  intro s hl hnone
  have heager : nextAction s = eagerAction s := by
    obtain hs | ⟨r, rest, i, hs, hd, hw, hc, hr, hheld⟩ := hnone
    · exact nextAction_of_empty hs
    · exact nextAction_of_blocked hs hd hw (by simp [appBlocked, hc, hr, Option.isSome_iff_ne_none.2 hheld])
  refine ⟨fun hht => step_of_run (heager.trans (eagerAction_of_halfTransfer hht)),
    fun hht htc => step_of_run (heager.trans (eagerAction_of_complete hht htc)), fun hht htc => ?_⟩
  refine ⟨fun n hheld hb => step_of_run (heager.trans (eagerAction_of_held hht htc hheld hb)),
    fun hfree htim hdma => step_of_run ?_, fun hfree hoff => step_of_rest hl ?_⟩ <;>
    rw [heager, eagerAction_of_engine hht htc hfree]
  · exact if_pos (Bool.and_eq_true_iff.2 ⟨htim, hdma⟩)
  · exact if_neg (by rcases hoff with h | h <;> simp [slotEnabled, h])

section Commands

/-- A command with a frame in flight writes the writable buffer, or makes APP wait (R208). -/
theorem command_in_flight {i : Instr} (hi : s.initialised = true) (hb : s.busy = true) (ha : s.active = .val a)
    (hc : i.isCommand = true) (h : exec i s = .next t) :
    t.buf a = s.buf a ∧ t = { s with buf0 := t.buf0, buf1 := t.buf1, held := t.held } := by
  cases i with
  | init =>
    obtain ⟨-, -, hr, -⟩ := exec_init_next h
    rw [hi] at hr; cases hr
  | setLed index color =>
    obtain ⟨-, ⟨-, rfl⟩ | ⟨a', ha', -, rfl⟩⟩ := exec_setLed_next h
    · exact ⟨rfl, rfl⟩
    · cases ha.symm.trans ha'
      cases a <;> exact ⟨rfl, rfl⟩
  | setAllLeds color count flag =>
    obtain ⟨-, a', f, ha', rfl, rfl⟩ := exec_setAllLeds_next h
    cases ha.symm.trans ha'
    cases a <;> cases flag <;> exact ⟨rfl, rfl⟩
  | refresh n =>
    obtain ⟨-, ⟨-, rfl⟩ | ⟨hidle, -⟩⟩ := exec_refresh_next h
    · cases a <;> exact ⟨rfl, rfl⟩
    · rw [hb] at hidle; cases hidle
  | _ => cases hc

end Commands

/-- Settles O50: `init` is refused after `init`, a refresh waits, and the writes go to the writable buffer. -/
theorem commandsInFlightLeaveTheFrameAlone : Obligations.CommandsInFlightLeaveTheFrameAlone := by
  unfold Obligations.CommandsInFlightLeaveTheFrameAlone
  exact fun s t a i hi hb ha hc h => command_in_flight hi hb ha hc h

end Sys2Proof.Machine
end

section
/-! PROOFS. The family of `44_streaming_engine.md`, its second part: everything an operation can do to a frame in flight
and to a block with none, and the transitions of the state machine that follow (R191, R192, R203). -/

namespace Sys2Proof.Machine

variable {s t : State} {a : BufId} {n q : Nat} {i : Instr}

/-- Nothing but the LED buffers, the wait of APP, the tick counter and the model's own outputs differs. -/
abbrev Aside (s t : State) : Prop :=
  t = { s with buf0 := t.buf0, buf1 := t.buf1, held := t.held, cnt := t.cnt, ret := t.ret, levels := t.levels }

section Phases
/-! Single facts of a frame in flight, and which phase a state is in. -/

theorem SetUp.initialised (h : SetUp s a) : s.initialised = true := by
  obtain ⟨hi, -⟩ := h
  exact hi

theorem InFlight.timEn (h : InFlight s a n q) : s.timEn = true := by
  obtain ⟨-, -, htim, -⟩ := h
  exact htim

theorem InFlight.nCur (h : InFlight s a n q) : s.nCur = .val n := by
  obtain ⟨-, -, -, -, -, hncur, -⟩ := h
  exact hncur

theorem InFlight.ledOff (h : InFlight s a n q) : s.ledOff = .val (min n (q + 2)) := by
  obtain ⟨-, -, -, -, -, -, -, -, -, hled, -⟩ := h
  exact hled

theorem InFlight.beats (h : InFlight s a n q) : q * s.cfg.bpl ≤ s.wire.length ∧ s.wire.length < (q + 2) * s.cfg.bpl := by
  obtain ⟨-, -, -, -, -, -, -, -, -, -, -, -, hlo, hhi, -⟩ := h
  exact ⟨hlo, hhi⟩

theorem InFlight.fsm (h : InFlight s a n q) : s.fsm = phase n q s.wire.length := by
  obtain ⟨-, -, -, -, -, -, -, -, -, -, -, -, -, -, -, -, -, -, -, hfsm⟩ := h
  exact hfsm

theorem InPhase.inFlight_of_busy (h : InPhase s) (hb : s.busy = true) : ∃ a n q, InFlight s a n q := by
  obtain ⟨-, hidle, -⟩ | ⟨a, n, hrest⟩ | hflight := h
  · rw [hidle] at hb; cases hb
  · rw [hrest.notBusy] at hb; cases hb
  · exact hflight

/-- With no frame in flight nothing of the engine is on, and the state machine is idle (R47, R190). -/
theorem InPhase.quiet (h : InPhase s) (hb : s.busy = false) :
    s.fsm = .idle ∧ s.timEn = false ∧ s.htFlag = false ∧ s.tcFlag = false := by
  obtain ⟨-, -, hfsm, htim, -, hht, htc⟩ | ⟨a, n, -, -, hfsm, htim, -, hht, htc, -⟩ | ⟨a, n, q, hflight⟩ := h
  · exact ⟨hfsm, htim, hht, htc⟩
  · exact ⟨hfsm, htim, hht, htc⟩
  · rw [hflight.busy] at hb; cases hb

/-- The cursor says which frame is in flight, so what leaves it alone leaves the frame in flight. -/
theorem InFlight.aside (h : InFlight s a n q) (hp : InPhase t) (hframe : Aside s t) : InFlight t a n q := by
  obtain ⟨hcfg, hactive, hncur, hpos, htim⟩ :
      t.cfg = s.cfg ∧ t.active = s.active ∧ t.nCur = s.nCur ∧ t.pos = s.pos ∧ t.timEn = s.timEn := by
    rw [hframe]
    exact ⟨rfl, rfl, rfl, rfl, rfl⟩
  obtain ⟨a', n', q', h'⟩ := hp.inFlight_of_timEn (htim.trans h.timEn)
  have ha : a' = a := Elem.val.inj (h'.setUp.active.symm.trans (hactive.trans h.setUp.active))
  have hn : n' = n := Elem.val.inj (h'.nCur.symm.trans (hncur.trans h.nCur))
  have hhalves : q' * t.cfg.bpl = q * s.cfg.bpl := Elem.val.inj (h'.pos.symm.trans (hpos.trans h.pos))
  rw [hcfg] at hhalves
  have hq : q' = q := Nat.eq_of_mul_eq_mul_right (bpl_pos s.cfg) hhalves
  rwa [ha, hn, hq] at h'

/-- Between two steps a request for an inner procedure changes nothing (R100, R271; log 12). -/
theorem exec_innerProcedure_of_inPhase (hv : s.cfg.valid = true) (hp : InPhase s) (hin : i.isInnerProcedure = true)
    (he : exec i s = .next t) : t = s := by
  cases i with
  | fillHalf =>
    obtain ⟨-, ⟨hon, -⟩ | ⟨-, hsame⟩⟩ := exec_fillHalf_next he
    · rw [hp.not_fillEnabled hv] at hon; cases hon
    · exact hsame
  | arm =>
    obtain ⟨-, ⟨hon, -⟩ | ⟨-, hsame⟩⟩ := exec_arm_next he
    · rw [hp.not_armEnabled hv] at hon; cases hon
    · exact hsame
  | disarm =>
    obtain ⟨-, ⟨hon, -⟩ | ⟨-, hsame⟩⟩ := exec_disarm_next he
    · rw [hp.not_disarmEnabled] at hon; cases hon
    · exact hsame
  | _ => cases hin

end Phases

section InFlight
/-! What an operation can do to a frame in flight: leave it alone, take a beat, serve a half, or end it. -/

/-- A beat has been taken: the frame's next value is on the wire (R197). -/
abbrev BeatTaken (s t : State) (a : BufId) (n q : Nat) : Prop :=
  InFlight t a n q ∧ t.wire = s.wire ++ [frameValue s.cfg (s.buf a) n s.wire.length] ∧
    t = { s with ccr := t.ccr, wire := t.wire, dmaIdx := t.dmaIdx, fsm := t.fsm, htFlag := t.htFlag,
                 tcFlag := t.tcFlag, cnt := t.cnt, levels := t.levels }

/-- The half just consumed has been acknowledged and refilled (R200, R201). -/
abbrev Refilled (s t : State) (a : BufId) (n q : Nat) : Prop :=
  InFlight t a n (q + 1) ∧
    t = { s.consumed q with scratch := t.scratch, ledOff := t.ledOff, wrPos := t.wrPos, fsm := t.fsm }

/-- What an operation that answers a next state does to the frame of `n` LEDs in flight from buffer `a` with `q` services
done (R191, R203). -/
inductive FrameEvent (s t : State) (a : BufId) (n q : Nat) : Instr → Prop
  | aside {i : Instr} (hflight : InFlight t a n q) (hbuf : t.buf a = s.buf a) (hframe : Aside s t) :
      FrameEvent s t a n q i
  | beat {i : Instr} (hi : i = .slot ∨ i = .tick) (ht : BeatTaken s t a n q) : FrameEvent s t a n q i
  | refill {i : Instr} (hi : i = .onHalfTransfer ∨ i = .onComplete) (hdue : (q + 1) * s.cfg.bpl ≤ s.wire.length)
      (ht : Refilled s t a n q) : FrameEvent s t a n q i
  | completion (hdue : (q + 1) * s.cfg.bpl ≤ s.wire.length) (hodd : q % 2 = 1)
      (hend : s.cfg.frameLen n ≤ (q + 1) * s.cfg.bpl) (hrest : AtRest t a n) (ht : t = (s.consumed q).disarmed) :
      FrameEvent s t a n q .onComplete

theorem beatTaken_of_beat (h : InFlight s a n q) (hbeat : beat s = .ok t) : BeatTaken s t a n q := by
  obtain ⟨-, hhi⟩ := h.beats
  rcases Nat.lt_or_eq_of_le (Nat.succ_le_of_lt hhi) with hlt | heq
  · obtain ⟨t', hbeat', ht, hwire⟩ := beat_before_deadline h hlt
    cases ok_unique hbeat' hbeat
    exact ⟨ht, hwire, by rw [beat_frame hbeat]⟩
  · obtain ⟨hfault, -⟩ := beat_at_deadline h heq
    rw [hfault] at hbeat; cases hbeat

theorem refill_completes (h : InFlight s a n q) (hdue : (q + 1) * s.cfg.bpl ≤ s.wire.length)
    (hmore : (q + 1) * s.cfg.bpl < s.cfg.frameLen n) : ∃ t, fillHalf (s.consumed q) = .ok t ∧ Refilled s t a n q := by
  obtain ⟨t, hfill, ht⟩ := refill_inFlight h hdue hmore
  exact ⟨t, hfill, ht, fillHalf_frame hfill⟩

theorem serveHalfTransfer_refills (h : InFlight s a n q) (hf : s.htFlag = true) :
    ∃ t, serveHalfTransfer s = .ok t ∧ Refilled s t a n q := by
  obtain ⟨hdue, heven, htc⟩ := h.even_of_htFlag hf
  obtain ⟨t, hfill, ht⟩ := refill_completes h hdue (even_half_lt_frameLen h.lt_frameLen heven)
  rw [← acknowledged_half_eq htc] at hfill
  exact ⟨t, serveHalfTransfer_eq_ok.2 ⟨_, h.pos, hfill⟩, ht⟩

theorem serveComplete_refills (h : InFlight s a n q) (hf : s.tcFlag = true)
    (hmore : (q + 1) * s.cfg.bpl < s.cfg.frameLen n) : ∃ t, serveComplete s = .ok t ∧ Refilled s t a n q := by
  obtain ⟨hdue, -, hht⟩ := h.odd_of_tcFlag hf
  obtain ⟨t, hfill, ht⟩ := refill_completes h hdue hmore
  rw [← acknowledged_complete_eq hht] at hfill
  rw [succ_half_start] at hmore
  exact ⟨t, serveComplete_eq_ok.2 ⟨_, _, h.pos, h.total, .inl ⟨hmore, hfill⟩⟩, ht⟩

theorem serveComplete_disarms (h : InFlight s a n q) (hf : s.tcFlag = true)
    (hend : s.cfg.frameLen n ≤ (q + 1) * s.cfg.bpl) : serveComplete s = .ok (s.consumed q).disarmed := by
  obtain ⟨-, -, hht⟩ := h.odd_of_tcFlag hf
  rw [succ_half_start] at hend
  exact serveComplete_eq_ok.2 ⟨_, _, h.pos, h.total, .inr ⟨hend, by rw [acknowledged_complete_eq hht]⟩⟩

/-- Everything an operation can do to a frame in flight before a next state (R191, R203). -/
theorem exec_of_inFlight (hv : s.cfg.valid = true) (h : InFlight s a n q) (he : exec i s = .next t) :
    FrameEvent s t a n q i := by
  have hp : InPhase s := .inr (.inr ⟨a, n, q, h⟩)
  have haside (hbuf : t.buf a = s.buf a) (hframe : Aside s t) : FrameEvent s t a n q i :=
    .aside (h.aside (exec_inPhase hv hp he) hframe) hbuf hframe
  cases i with
  | init | setLed | setAllLeds | refresh =>
    obtain ⟨hbuf, hframe⟩ := command_in_flight h.setUp.initialised h.busy h.setUp.active rfl he
    exact haside hbuf (by rw [hframe])
  | slot =>
    obtain ⟨-, ⟨-, -, hbeat⟩ | ⟨-, rfl⟩⟩ := exec_slot_next he
    · exact .beat (.inl rfl) (beatTaken_of_beat h hbeat)
    · exact haside rfl rfl
  | tick =>
    obtain ⟨-, ⟨-, rfl⟩ | ⟨-, cnt, arr, ccr, lv, -, -, -, -, hcount⟩⟩ := exec_tick_next he
    · exact haside rfl rfl
    · obtain ⟨-, rfl⟩ | ⟨-, -, rfl⟩ | ⟨-, -, hbeat⟩ := hcount
      · exact haside (by cases a <;> rfl) rfl
      · exact haside (by cases a <;> rfl) rfl
      · have hwrapped : InFlight { s with levels := lv, cnt := .val 0 } a n q := counted_inFlight h (Nat.zero_le _)
        have ht := beatTaken_of_beat hwrapped hbeat
        exact .beat (.inr rfl) (by cases a <;> exact ht)
  | onHalfTransfer =>
    obtain ⟨-, ⟨hf, -, hserve⟩ | ⟨-, rfl⟩⟩ := exec_onHalfTransfer_next he
    · obtain ⟨t', hserve', ht⟩ := serveHalfTransfer_refills h hf
      cases ok_unique hserve' hserve
      obtain ⟨hdue, -⟩ := h.even_of_htFlag hf
      exact .refill (.inl rfl) hdue ht
    · exact haside rfl rfl
  | onComplete =>
    obtain ⟨-, ⟨hf, -, hserve⟩ | ⟨-, rfl⟩⟩ := exec_onComplete_next he
    · obtain ⟨hdue, hodd, -⟩ := h.odd_of_tcFlag hf
      rcases Nat.lt_or_ge ((q + 1) * s.cfg.bpl) (s.cfg.frameLen n) with hmore | hend
      · obtain ⟨t', hserve', ht⟩ := serveComplete_refills h hf hmore
        cases ok_unique hserve' hserve
        exact .refill (.inr rfl) hdue ht
      · cases ok_unique (serveComplete_disarms h hf hend) hserve
        exact .completion hdue hodd hend (disarmed_atRest hv h hodd hdue hend) rfl
    · exact haside rfl rfl
  | fillHalf | arm | disarm =>
    obtain rfl := exec_innerProcedure_of_inPhase hv hp rfl he
    exact haside rfl rfl
  | encode | ledwordGrb24 | ledwordRgb24 | ledwordGrbw32 | ledwordRgbw32 | symBit0 | symBit1 | symPause =>
    obtain ⟨-, rfl⟩ := answer_eq_next he
    exact haside (by cases a <;> rfl) rfl

end InFlight

section Arming
/-! What an operation can do with no frame in flight: leave the engine alone, or arm a frame. -/

/-- A frame is armed: by `init`, or by a `refresh` that is taken (R230, R233). -/
inductive Arming (s t : State) : Instr → Prop
  | init (hi : s.initialised = false) (ht : Refreshed s.initFilled t .b0 s.maxLeds) : Arming s t .init
  | refresh {m n : Nat} {b : BufId} (hrest : AtRest s b n)
      (ht : Refreshed { s with held := none } t b (min m s.maxLeds)) : Arming s t (.refresh m)

/-- Everything an operation can do with no frame in flight before a next state (R191, R203). -/
theorem exec_of_notBusy (hv : s.cfg.valid = true) (hp : InPhase s) (hb : s.busy = false) (he : exec i s = .next t) :
    Aside s t ∨ Arming s t i := by
  obtain ⟨-, htim, hht, htc⟩ := hp.quiet hb
  cases i with
  | init =>
    obtain ⟨-, -, hi, u, hfill, hrefresh⟩ := exec_init_next he
    obtain ⟨t', hbody, ht⟩ := initBody_completes s
    cases ok_unique hbody (bind_eq_ok.2 ⟨u, hfill, hrefresh⟩)
    exact .inr (.init hi ht)
  | setLed index color =>
    obtain ⟨-, ⟨-, rfl⟩ | ⟨b, -, -, rfl⟩⟩ := exec_setLed_next he
    · exact .inl rfl
    · exact .inl (by cases b <;> rfl)
  | setAllLeds color count flag =>
    obtain ⟨-, b, f, -, rfl, rfl⟩ := exec_setAllLeds_next he
    exact .inl (by cases b <;> cases flag <;> rfl)
  | refresh m =>
    obtain ⟨⟨-, -, hi⟩, ⟨hbusy, -⟩ | ⟨-, hrefresh⟩⟩ := exec_refresh_next he
    · rw [hb] at hbusy; cases hbusy
    · obtain ⟨b, n, hrest⟩ := hp.atRest hi hb
      obtain ⟨b', hb', -, ht⟩ := refreshNow_cases hrefresh
      cases hrest.setUp.active.symm.trans hb'
      exact .inr (.refresh hrest ht)
  | slot =>
    obtain ⟨-, ⟨hon, -⟩ | ⟨-, rfl⟩⟩ := exec_slot_next he
    · rw [htim] at hon; cases hon
    · exact .inl rfl
  | tick =>
    obtain ⟨-, ⟨-, rfl⟩ | ⟨hon, -⟩⟩ := exec_tick_next he
    · exact .inl rfl
    · rw [htim] at hon; cases hon
  | onHalfTransfer =>
    obtain ⟨-, ⟨hf, -⟩ | ⟨-, rfl⟩⟩ := exec_onHalfTransfer_next he
    · rw [hht] at hf; cases hf
    · exact .inl rfl
  | onComplete =>
    obtain ⟨-, ⟨hf, -⟩ | ⟨-, rfl⟩⟩ := exec_onComplete_next he
    · rw [htc] at hf; cases hf
    · exact .inl rfl
  | fillHalf | arm | disarm =>
    obtain rfl := exec_innerProcedure_of_inPhase hv hp rfl he
    exact .inl rfl
  | encode | ledwordGrb24 | ledwordRgb24 | ledwordGrbw32 | ledwordRgbw32 | symBit0 | symBit1 | symPause =>
    obtain ⟨-, rfl⟩ := answer_eq_next he
    exact .inl rfl

end Arming

/-- Settles O55: with no frame in flight only an arming sets `busy`, and a refresh that is taken leaves its frame just
armed. -/
theorem everyArmingStartsAFrame : Obligations.EveryArmingStartsAFrame := by
  unfold Obligations.EveryArmingStartsAFrame
  intro s t i hs he hb hbt
  obtain ⟨⟨⟨hv, -⟩, -⟩, hp⟩ := inv_iff.1 hs
  obtain haside | harm := exec_of_notBusy hv hp hb he
  · have hidle : t.busy = false := by rw [haside]; exact hb
    rw [hidle] at hbt; cases hbt
  · cases harm with
    | init hi ht =>
      have hflight : InFlight t .b1 s.maxLeds 0 :=
        refreshed_inFlight (s := s.initFilled) (a := .b0) hv (initFilled_standby s) initFilled_bufferFull le_rfl ht
      obtain ⟨hbuf, -, -, hframe⟩ := ht
      have hblack (j : Nat) (hj : j < s.maxLeds) : (t.buf .b1).read j = some Color.black := by
        rw [show t.buf .b1 = s.initFilled.buf .b1 from hbuf, initFilled_read, if_pos hj]
      exact ⟨_, _, hflight, by rw [hframe], .inl ⟨rfl, rfl, by rw [hframe]; rfl, hblack⟩⟩
    | @refresh m n b hrest ht =>
      have hflight : InFlight t b.other (min m s.maxLeds) 0 :=
        refreshed_inFlight (s := { s with held := none }) hv hrest.standby (hrest.setUp.full b.other) (Nat.min_le_right _ _) ht
      obtain ⟨hbuf, -, -, hframe⟩ := ht
      exact ⟨_, _, hflight, by rw [hframe],
        .inr ⟨m, b, rfl, rfl, by rw [hframe], hrest.setUp.active, rfl, hbuf⟩⟩

section StateMachine
/-! The transition of each event, read off the phase of the frame (R191). -/

theorem phase_eq_armed {k : Nat} (hk : k = 0) : phase n q k = .armed := if_pos hk

theorem phase_succ {k : Nat} (hk : k ≠ 0) : phase n q (k + 1) = phase n q k := by
  rw [phase, phase, if_neg hk, if_neg (Nat.succ_ne_zero k)]

theorem beats_ne_zero_of_due (hdue : (q + 1) * s.cfg.bpl ≤ s.wire.length) : s.wire.length ≠ 0 :=
  (Nat.lt_of_lt_of_le (Nat.mul_pos (Nat.succ_pos q) (bpl_pos s.cfg)) hdue).ne'

theorem beatTaken_fsm (h : InFlight s a n q) (ht : BeatTaken s t a n q) : t.fsm = s.fsm ∨
    (s.fsm = .armed ∧ t.fsm = .streaming ∧ s.wire = [] ∧ t.wire.length = 1) := by
  obtain ⟨hflight, hwire, -⟩ := ht
  have hlen : t.wire.length = s.wire.length + 1 := by rw [hwire, List.length_append, List.length_singleton]
  have hfsm : t.fsm = phase n q (s.wire.length + 1) := by rw [hflight.fsm, hlen]
  by_cases hfirst : s.wire.length = 0
  · have hq : q = 0 := by
      obtain ⟨hlo, -⟩ := h.beats
      rw [hfirst] at hlo
      exact (Nat.mul_eq_zero.1 (Nat.le_zero.1 hlo)).resolve_right (bpl_pos s.cfg).ne'
    refine .inr ⟨h.fsm.trans (phase_eq_armed hfirst), hfsm.trans ?_, List.length_eq_zero_iff.1 hfirst, by omega⟩
    simp [phase, hq]
  · exact .inl (by rw [hfsm, h.fsm, phase_succ hfirst])

theorem refilled_fsm (h : InFlight s a n q) (hdue : (q + 1) * s.cfg.bpl ≤ s.wire.length) (ht : Refilled s t a n q) :
    t.fsm = s.fsm ∨ (s.fsm = .streaming ∧ t.fsm = .draining ∧ n ≤ min n (q + 2)) := by
  obtain ⟨hflight, hframe⟩ := ht
  have hwire : t.wire = s.wire := by rw [hframe]; rfl
  have hk := beats_ne_zero_of_due hdue
  have hfsm := phase_refilled (n := n) (q := q) hk
  rw [← hwire, ← hflight.fsm, hwire, ← h.fsm] at hfsm
  split at hfsm
  next hc => exact .inr ⟨hc.2, hfsm.symm, hc.1⟩
  next => exact .inl hfsm.symm

/-- The last half of a frame is pause, so the frame is draining before it ends (R127, R191). -/
theorem draining_at_end (hv : s.cfg.valid = true) (h : InFlight s a n q) (hodd : q % 2 = 1)
    (hdue : (q + 1) * s.cfg.bpl ≤ s.wire.length) (hend : s.cfg.frameLen n ≤ (q + 1) * s.cfg.bpl) :
    s.fsm = .draining := by
  have hk := beats_ne_zero_of_due hdue
  have hleds : n < q + 1 := Nat.lt_of_mul_lt_mul_right ((leds_lt_frameLen n hv).trans_le hend)
  rw [h.fsm, phase, if_neg hk, if_neg (by omega)]

theorem Arming.fsm (h : Arming s t i) : t.fsm = .armed ∧ (i = .init ∨ ∃ m, i = .refresh m) := by
  cases h with
  | init _ ht =>
    obtain ⟨-, -, -, hframe⟩ := ht
    exact ⟨by rw [hframe], .inl rfl⟩
  | refresh _ ht =>
    obtain ⟨-, -, -, hframe⟩ := ht
    exact ⟨by rw [hframe], .inr ⟨_, rfl⟩⟩

end StateMachine

/-- Settles O49: each arming and each event of a frame in flight takes at most one transition, the table's. -/
theorem stateMachineMovesOnlyAsTabled : Obligations.StateMachineMovesOnlyAsTabled := by
  unfold Obligations.StateMachineMovesOnlyAsTabled
  intro s t i hs he
  obtain ⟨⟨⟨hv, -⟩, -⟩, hp⟩ := inv_iff.1 hs
  cases hb : s.busy
  · obtain ⟨hidle, -⟩ := hp.quiet hb
    obtain haside | harm := exec_of_notBusy hv hp hb he
    · exact .inl (by rw [haside])
    · obtain ⟨hfsm, hi⟩ := harm.fsm
      exact .inr (.inl ⟨hidle, hfsm, rfl, hi⟩)
  · obtain ⟨a, n, q, h⟩ := hp.inFlight_of_busy hb
    cases exec_of_inFlight hv h he with
    | aside _ _ hframe => exact .inl (by rw [hframe])
    | beat hi ht =>
      obtain hsame | ⟨hs, ht, hwire, hlen⟩ := beatTaken_fsm h ht
      · exact .inl hsame
      · exact .inr (.inr (.inl ⟨hs, ht, hwire, hlen, hi⟩))
    | refill hi hdue ht =>
      obtain hsame | ⟨hs, ht, hleds⟩ := refilled_fsm h hdue ht
      · exact .inl hsame
      · exact .inr (.inr (.inr (.inl ⟨hs, ht, hi, _, _, h.ledOff, h.nCur, hleds⟩)))
    | completion hdue hodd hend _ ht =>
      subst ht
      exact .inr (.inr (.inr (.inr ⟨draining_at_end hv h hodd hdue hend, rfl, rfl, _, _, rfl, h.total, hend⟩)))

end Sys2Proof.Machine
end

section
/-! PROOFS. The family of `44_streaming_engine.md`, its third part: what a completed transfer has sent under every
interleaving (R203, R206), and under the eager schedule (R204, R205). -/

namespace Sys2Proof.Machine

variable {s t u : State} {a : BufId} {n q : Nat} {i : Instr}

section Trace
/-! The trace of a frame in flight, read as the frame and the zeros of late service. -/

theorem InFlight.wire (h : InFlight s a n q) :
    s.wire = (List.range s.wire.length).map (frameValue s.cfg (s.buf a) n) := by
  obtain ⟨-, -, -, -, -, -, -, -, -, -, -, -, -, -, -, -, hwire, -⟩ := h
  exact hwire

theorem InFlight.isSome_read (h : InFlight s a n q) {j : Nat} (hj : j < n) : ((s.buf a).read j).isSome = true := by
  obtain ⟨hset, -, -, -, hn, -⟩ := h
  exact hset.full a j (Nat.lt_of_lt_of_le hj hn)

/-- From the end of the LEDs on, the frame's values are zeros (R98, R206). -/
theorem frameValues_of_pause (c : Config) (m : Memory Color) {p : Nat} (hp : n * c.bpl ≤ p) (k : Nat) :
    (List.range k).map (frameValue c m n ∘ (p + ·)) = List.replicate k 0 := by
  refine List.eq_replicate_iff.2 ⟨by simp, fun v hv => ?_⟩
  obtain ⟨j, -, rfl⟩ := List.mem_map.1 hv
  exact frameValue_of_pause (Nat.le_add_right_of_le hp)

/-- A trace at least as long as the frame is the frame, and zeros (R203, R206). -/
theorem wire_past_frame (h : InFlight s a n q) {k : Nat} (hk : s.wire.length = s.cfg.frameLen n + k) :
    s.wire = frame s.cfg (s.buf a) n ++ List.replicate k 0 := by
  have hleds : n * s.cfg.bpl ≤ s.cfg.frameLen n := Nat.le_of_add_right_le (leds_and_pause_le_frameLen s.cfg n)
  rw [h.wire, hk, List.range_add, List.map_append, List.map_map, frameValues_of_pause _ _ hleds,
    ← frameIsItsValues s.cfg (s.buf a) n fun _ hj => h.isSome_read hj]

end Trace

section Interleavings
/-! Any operations in any contexts after an arming: the transfer goes on, or it has been pushed to `frames`, which only
grows. -/

/-- No transfer has completed since, and the buffer being sent is as it was. -/
abbrev SameTransfer (s t : State) (a : BufId) : Prop := t.cfg = s.cfg ∧ t.frames = s.frames ∧ t.buf a = s.buf a

theorem SameTransfer.trans (h : SameTransfer s t a) (h' : SameTransfer t u a) : SameTransfer s u a := by
  obtain ⟨hcfg, hframes, hbuf⟩ := h
  obtain ⟨hcfg', hframes', hbuf'⟩ := h'
  exact ⟨hcfg'.trans hcfg, hframes'.trans hframes, hbuf'.trans hbuf⟩

theorem BeatTaken.sameTransfer (h : BeatTaken s t a n q) : SameTransfer s t a := by
  obtain ⟨-, -, hframe⟩ := h
  rw [hframe]
  cases a <;> exact ⟨rfl, rfl, rfl⟩

theorem Refilled.sameTransfer (h : Refilled s t a n q) : SameTransfer s t a := by
  obtain ⟨-, hframe⟩ := h
  rw [hframe]
  cases a <;> exact ⟨rfl, rfl, rfl⟩

/-- An event of a frame in flight lets the transfer go on, or completes it with its frame and fewer than `BPL` zeros
(R203, R206). -/
theorem FrameEvent.goes_on_or_completes (h : InFlight s a n q) (he : FrameEvent s t a n q i) :
    (∃ q', InFlight t a n q' ∧ SameTransfer s t a) ∨
      (AtRest t a n ∧ ∃ k, k < s.cfg.bpl ∧ t.frames = s.frames ++ [frame s.cfg (s.buf a) n ++ List.replicate k 0]) := by
  cases he with
  | aside hflight hbuf hframe => exact .inl ⟨q, hflight, by rw [hframe], by rw [hframe], hbuf⟩
  | beat _ ht => exact .inl ⟨q, ht.1, ht.sameTransfer⟩
  | refill _ _ ht => exact .inl ⟨q + 1, ht.1, ht.sameTransfer⟩
  | completion hdue _ hend hrest ht =>
    obtain ⟨k, hk⟩ := Nat.exists_eq_add_of_le (hend.trans hdue)
    have hlt : k < s.cfg.bpl := by
      have hhalf := half_le_frameLen h.lt_frameLen
      have hsucc : (q + 2) * s.cfg.bpl = (q + 1) * s.cfg.bpl + s.cfg.bpl := succ_half_start s.cfg (q + 1)
      obtain ⟨-, hhi⟩ := h.beats
      omega
    have hframes : t.frames = s.frames ++ [s.wire] := by rw [ht]; rfl
    exact .inr ⟨hrest, k, hlt, by rw [hframes, ← wire_past_frame h hk]⟩

/-- After `init` no operation takes a completed trace back (R46, R104). -/
theorem exec_keeps_frames (hv : s.cfg.valid = true) (hp : InPhase s) (hi : s.initialised = true)
    (he : exec i s = .next t) : t.initialised = true ∧ s.frames.length ≤ t.frames.length := by
  cases hb : s.busy
  · obtain haside | harm := exec_of_notBusy hv hp hb he
    · rw [haside]
      exact ⟨hi, le_rfl⟩
    · cases harm with
      | init hno => rw [hi] at hno; cases hno
      | refresh _ ht =>
        obtain ⟨-, -, -, hframe⟩ := ht
        rw [hframe]
        exact ⟨hi, le_rfl⟩
  · obtain ⟨a, n, q, h⟩ := hp.inFlight_of_busy hb
    obtain ⟨q', hflight, -, hframes, -⟩ | ⟨hrest, k, -, hframes⟩ := (exec_of_inFlight hv h he).goes_on_or_completes h
    · exact ⟨hflight.setUp.initialised, by rw [hframes]⟩
    · exact ⟨hrest.setUp.initialised, by simp [hframes]⟩

/-- What every operation keeps, in whatever context, a run of operations keeps. -/
theorem runAll_keeps {p : State → Prop} (hissuer : ∀ x c, p x → p { x with issuer := c })
    (hexec : ∀ x y i, p x → exec i x = .next y → p y) {is : List (Context × Instr)} (hs : p s)
    (h : runAll is s = .next t) : p t := by
  induction is generalizing s with
  | nil =>
    cases h
    exact hs
  | cons ci is ih =>
    obtain ⟨c, i⟩ := ci
    rw [runAll] at h
    split at h
    next u hu => exact ih (hexec _ u i (hissuer s c hs) hu) h
    next => cases h
    next => cases h

/-- A transfer armed in `s` is in flight in `t`, or has been completed since. -/
def OnTheWay (s : State) (a : BufId) (n : Nat) (t : State) : Prop :=
  (∃ q, InFlight t a n q ∧ SameTransfer s t a) ∨
    (t.cfg = s.cfg ∧ InPhase t ∧ t.initialised = true ∧ s.frames.length < t.frames.length)

theorem exec_keeps_onTheWay (hv : s.cfg.valid = true) (ht : OnTheWay s a n t) (he : exec i t = .next u) :
    OnTheWay s a n u := by
  obtain ⟨q, hflight, hsame⟩ | ⟨hcfg, hp, hi, hlt⟩ := ht
  · have ⟨hcfg, hframes, _⟩ := hsame
    have hvt : t.cfg.valid = true := hcfg ▸ hv
    obtain ⟨q', hflight', hsame'⟩ | ⟨hrest, k, -, hpushed⟩ :=
      (exec_of_inFlight hvt hflight he).goes_on_or_completes hflight
    · exact .inl ⟨q', hflight', hsame.trans hsame'⟩
    · exact .inr ⟨(exec_keeps_cfg he).trans hcfg, .inr (.inl ⟨a, n, hrest⟩), hrest.setUp.initialised,
        by simp [hpushed, hframes]⟩
  · have hvt : t.cfg.valid = true := hcfg ▸ hv
    obtain ⟨hi', hle⟩ := exec_keeps_frames hvt hp hi he
    exact .inr ⟨(exec_keeps_cfg he).trans hcfg, exec_inPhase hvt hp he, hi', hlt.trans_le hle⟩

end Interleavings

/-- Settles O54: while no transfer has completed the one armed in `s` is on its way, and `on_complete` pushes its
trace. -/
theorem everyTransferSendsItsFrame : Obligations.EveryTransferSendsItsFrame := by
  unfold Obligations.EveryTransferSendsItsFrame
  intro s s2 t a n is ⟨hv, _⟩ h _ hrun hframes he hpushed
  have hstart : OnTheWay s a n s := .inl ⟨0, h, rfl, rfl, rfl⟩
  obtain ⟨q, h2, hcfg, -, hbuf⟩ | ⟨-, -, -, hlt⟩ :=
    runAll_keeps (fun _ _ hx => hx) (fun _ _ _ hx hy => exec_keeps_onTheWay hv hx hy) hstart hrun
  · have h2' : InFlight { s2 with issuer := .interrupt } a n q := h2
    have hbuf' : ({ s2 with issuer := .interrupt } : State).buf a = s.buf a := by cases a <;> exact hbuf
    obtain ⟨-, -, -, hsame, -⟩ | ⟨-, k, hk, hdone⟩ :=
      (exec_of_inFlight (hcfg ▸ hv) h2' he).goes_on_or_completes h2'
    · exact absurd hsame hpushed
    · rw [hbuf'] at hdone
      simp only [hcfg, hframes] at hk hdone
      exact ⟨k, hk, hdone⟩
  · rw [hframes] at hlt
    exact absurd hlt (lt_irrefl _)

section Eager
/-! The eager run of a frame, half by half: `BPL` beats and the service of the half (R204, R205). -/

/-- Nothing is requested and APP does not wait, so the steps are the eager schedule's (log 4). -/
abbrev Unattended (s : State) : Prop := Live s ∧ s.script = [] ∧ s.held = none

theorem run_add_of_next {M : Host.Core} {x y : M.State} {j : Nat} (h : M.run j x = .next y) (k : Nat) :
    M.run (j + k) x = M.run k y := by
  induction j generalizing x with
  | zero =>
    cases h
    rw [Nat.zero_add]
  | succ j ih =>
    rw [Nat.succ_add]
    rw [Host.Core.run] at h ⊢
    split at h
    next u hu => exact ih h
    next => cases h
    next => cases h

theorem run_one_of_step {M : Host.Core} {x y : M.State} (h : M.step x = .next y) : M.run 1 x = .next y := by
  rw [Host.Core.run, h]
  rfl

/-- `k` steps of the machine lead from `s` to `t`. -/
def Steps (k : Nat) (s t : State) : Prop := Host.Core.run Sys2Proof.core k s = .next t

theorem Steps.trans {j k : Nat} (h : Steps j s t) (h' : Steps k t u) : Steps (j + k) s u :=
  (run_add_of_next h k).trans h'

theorem steps_one (h : step s = .next t) : Steps 1 s t := run_one_of_step (M := Sys2Proof.core) h

theorem InFlight.flags_clear (h : InFlight s a n q) (hk : s.wire.length < (q + 1) * s.cfg.bpl) :
    s.htFlag = false ∧ s.tcFlag = false := by
  obtain ⟨-, -, -, -, -, -, -, -, -, -, -, -, -, -, hht, htc, -⟩ := h
  rw [hht, htc]
  exact ⟨decide_eq_false (by omega), decide_eq_false (by omega)⟩

theorem InFlight.flags_due (h : InFlight s a n q) (hdue : (q + 1) * s.cfg.bpl ≤ s.wire.length) :
    s.htFlag = decide (q % 2 = 0) ∧ s.tcFlag = decide (q % 2 = 1) := by
  obtain ⟨-, -, -, -, -, -, -, -, -, -, -, -, -, -, hht, htc, -⟩ := h
  simp [hht, htc, hdue]

theorem frameLen_has_last_half {c : Config} (n : Nat) (hv : c.valid = true) : ∃ q, c.frameLen n = (q + 1) * c.bpl := by
  obtain ⟨m, hm⟩ := frameLen_eq_halves c n
  have hpos := leds_lt_frameLen n hv
  obtain _ | m := m
  · omega
  · exact ⟨2 * m + 1, by rw [hm]; ring⟩

/-- The last half of a frame is the second of a pass (R127). -/
theorem InFlight.odd_of_last (h : InFlight s a n q) (hend : s.cfg.frameLen n ≤ (q + 1) * s.cfg.bpl) : q % 2 = 1 := by
  by_contra heven
  have := even_half_lt_frameLen h.lt_frameLen (by omega)
  omega

theorem InFlight.dmaEn (h : InFlight s a n q) : s.dmaEn = true := by
  obtain ⟨-, -, -, hdma, -⟩ := h
  exact hdma

/-- The eager run has reached `k` beats and `q` services of the frame that `s` sends. -/
abbrev Reached (s t : State) (a : BufId) (n q k : Nat) : Prop :=
  Unattended t ∧ InFlight t a n q ∧ SameTransfer s t a ∧ t.wire.length = k

/-- Before the end of a half the eager step is a beat (R197, R205). -/
theorem step_takes_beat (hu : Unattended s) (h : InFlight s a n q) (hk : s.wire.length < (q + 1) * s.cfg.bpl) :
    ∃ t, step s = .next t ∧ Reached s t a n q (s.wire.length + 1) := by
  obtain ⟨hl, hs, hheld⟩ := hu
  obtain ⟨hht, htc⟩ := h.flags_clear hk
  have hon : slotEnabled s = true := Bool.and_eq_true_iff.2 ⟨h.timEn, h.dmaEn⟩
  have hslot : nextAction s = .run .slot s := by
    rw [nextAction_of_empty hs, eagerAction_of_engine hht htc (.inl hheld), if_pos hon]
  have hearly : s.wire.length + 1 < (q + 2) * s.cfg.bpl := by
    have hsucc : (q + 2) * s.cfg.bpl = (q + 1) * s.cfg.bpl + s.cfg.bpl := succ_half_start s.cfg (q + 1)
    have := bpl_pos s.cfg
    omega
  obtain ⟨t, hbeat, -⟩ := beat_before_deadline h hearly
  have ht := beatTaken_of_beat h hbeat
  have ⟨hflight, hwire, _⟩ := ht
  refine ⟨t, by rw [step_of_run hslot, exec_slot_of_enabled hl h.timEn h.dmaEn, hbeat, settle_ok], ?_, hflight,
    ht.sameTransfer, by rw [hwire, List.length_append, List.length_singleton]⟩
  rw [beat_frame hbeat]
  exact ⟨hl, hs, hheld⟩

theorem run_takes_beats {k : Nat} (hu : Unattended s) (h : InFlight s a n q)
    (hk : s.wire.length + k ≤ (q + 1) * s.cfg.bpl) :
    ∃ t, Steps k s t ∧ Reached s t a n q (s.wire.length + k) := by
  induction k with
  | zero => exact ⟨s, rfl, hu, h, ⟨rfl, rfl, rfl⟩, rfl⟩
  | succ k ih =>
    obtain ⟨t, hrun, hut, ht, hsame, hlen⟩ := ih (by omega)
    have ⟨hcfg, _⟩ := hsame
    obtain ⟨u, hstep, huu, hflight, hsame', hlen'⟩ := step_takes_beat hut ht (by rw [hlen, hcfg]; omega)
    exact ⟨u, hrun.trans (steps_one hstep), huu, hflight, hsame.trans hsame', by omega⟩

/-- `BPL` beats play the half that no service is due for yet. -/
theorem Reached.plays_half (h : Reached s t a n q (q * s.cfg.bpl)) :
    ∃ u, Steps s.cfg.bpl t u ∧ Reached s u a n q ((q + 1) * s.cfg.bpl) := by
  obtain ⟨hut, ht, hsame, hlen⟩ := h
  have ⟨hcfg, _⟩ := hsame
  have hsucc := succ_half_start s.cfg q
  obtain ⟨u, hbeats, huu, hu, hsame', hlen'⟩ := run_takes_beats (k := s.cfg.bpl) hut ht (by rw [hcfg]; omega)
  exact ⟨u, hbeats, huu, hu, hsame.trans hsame', by omega⟩

/-- At the end of a half the eager step is the half's service (R199, R205). -/
theorem step_serves (hu : Unattended s) (h : InFlight s a n q) (hdue : (q + 1) * s.cfg.bpl ≤ s.wire.length) :
    step s = settle (if q % 2 = 0 then serveHalfTransfer { s with issuer := .interrupt }
      else serveComplete { s with issuer := .interrupt }) := by
  obtain ⟨hl, hs, -⟩ := hu
  obtain ⟨hht, htc⟩ := h.flags_due hdue
  split
  next heven =>
    have hf : s.htFlag = true := hht.trans (decide_eq_true heven)
    rw [step_of_run ((nextAction_of_empty hs).trans (eagerAction_of_halfTransfer hf))]
    exact exec_onHalfTransfer_of_pending hl rfl hf
  next hodd =>
    have hclear : s.htFlag = false := hht.trans (decide_eq_false hodd)
    have hf : s.tcFlag = true := htc.trans (decide_eq_true (by omega))
    rw [step_of_run ((nextAction_of_empty hs).trans (eagerAction_of_complete hclear hf))]
    exact exec_onComplete_of_pending hl rfl hf

theorem step_refills (hu : Unattended s) (h : InFlight s a n q) (hdue : s.wire.length = (q + 1) * s.cfg.bpl)
    (hmore : (q + 1) * s.cfg.bpl < s.cfg.frameLen n) :
    ∃ t, step s = .next t ∧ Reached s t a n (q + 1) ((q + 1) * s.cfg.bpl) := by
  have h' : InFlight { s with issuer := .interrupt } a n q := h
  obtain ⟨hht, htc⟩ := h.flags_due hdue.ge
  obtain ⟨t, hserve, ht⟩ : ∃ t, (if q % 2 = 0 then serveHalfTransfer { s with issuer := .interrupt }
      else serveComplete { s with issuer := .interrupt }) = .ok t ∧ Refilled { s with issuer := .interrupt } t a n q := by
    split
    next heven => exact serveHalfTransfer_refills h' (hht.trans (decide_eq_true heven))
    next hodd => exact serveComplete_refills h' (htc.trans (decide_eq_true (by omega))) hmore
  have hsame : SameTransfer s t a := by
    have := ht.sameTransfer
    cases a <;> exact this
  obtain ⟨hflight, hframe⟩ := ht
  refine ⟨t, by rw [step_serves hu h hdue.ge, hserve, settle_ok], ?_, hflight, hsame, ?_⟩
  · rw [hframe]
    exact hu
  · rw [hframe]
    exact hdue

theorem step_disarms (hu : Unattended s) (h : InFlight s a n q) (hdue : (q + 1) * s.cfg.bpl ≤ s.wire.length)
    (hend : s.cfg.frameLen n ≤ (q + 1) * s.cfg.bpl) :
    step s = .next (({ s with issuer := .interrupt } : State).consumed q).disarmed := by
  have hodd := h.odd_of_last hend
  obtain ⟨-, htc⟩ := h.flags_due hdue
  have h' : InFlight { s with issuer := .interrupt } a n q := h
  rw [step_serves hu h hdue, if_neg (by omega), serveComplete_disarms h' (htc.trans (decide_eq_true hodd)) hend, settle_ok]

/-- `BPL` beats and a service bring the run one half further (R204). -/
theorem run_reaches_half (hu : Unattended s) (h : InFlight s a n 0) (hwire : s.wire = []) {j : Nat}
    (hj : j * s.cfg.bpl < s.cfg.frameLen n) :
    ∃ t, Steps (j * (s.cfg.bpl + 1)) s t ∧ Reached s t a n j (j * s.cfg.bpl) := by
  induction j with
  | zero => exact ⟨s, by rw [Nat.zero_mul]; rfl, hu, h, ⟨rfl, rfl, rfl⟩, by rw [hwire, Nat.zero_mul]; rfl⟩
  | succ j ih =>
    have hsucc := succ_half_start s.cfg j
    obtain ⟨t, hrun, ht⟩ := ih (by omega)
    obtain ⟨v, hbeats, huv, hv, hsame, hlen⟩ := ht.plays_half
    have ⟨hcfg, _⟩ := hsame
    obtain ⟨w, hserve, huw, hw, hsame', hlen'⟩ := step_refills huv hv (by rw [hlen, hcfg]) (by rwa [hcfg])
    refine ⟨w, ?_, huw, hw, hsame.trans hsame', by rw [hlen', hcfg]⟩
    rw [Nat.succ_mul]
    exact hrun.trans (hbeats.trans (steps_one hserve))

end Eager

/-- Settles O56: all halves but the last are refilled, and the service of the last one finds a trace of exactly
`frame_len(n)` beats. -/
theorem eagerScheduleCompletesTheFrame : Obligations.EagerScheduleCompletesTheFrame := by
  unfold Obligations.EagerScheduleCompletesTheFrame
  intro s a n hl h hwire hs hheld
  obtain ⟨q, hq⟩ := frameLen_has_last_half n hl.1
  have hsucc := succ_half_start s.cfg q
  have hbpl := bpl_pos s.cfg
  obtain ⟨t, hrun, ht⟩ := run_reaches_half ⟨hl, hs, hheld⟩ h hwire (j := q) (by omega)
  obtain ⟨v, hbeats, huv, hv, ⟨hcfg, hframes, hbuf⟩, hlen⟩ := ht.plays_half
  have hdue : v.wire.length = (q + 1) * v.cfg.bpl := by rw [hlen, hcfg]
  have hend : v.cfg.frameLen n = (q + 1) * v.cfg.bpl := by rw [hcfg, hq]
  have hlast := step_disarms huv hv hdue.ge hend.le
  have hodd : q % 2 = 1 := hv.odd_of_last hend.le
  have hcount : s.cfg.frameLen n + s.cfg.frameLen n / s.cfg.bpl = q * (s.cfg.bpl + 1) + (s.cfg.bpl + 1) := by
    rw [hq, Nat.mul_div_cancel _ hbpl]
    ring
  have hframe : v.wire = frame s.cfg (s.buf a) n := by
    rw [wire_past_frame hv (k := 0) (hdue.trans hend.symm), hcfg, hbuf, List.replicate_zero, List.append_nil]
  refine ⟨_, ?_, disarmed_atRest (s := { v with issuer := .interrupt }) (hcfg ▸ hl.1) hv hodd hdue.ge hend.le, ?_, ?_⟩
  · rw [hcount]
    exact hrun.trans (hbeats.trans (steps_one hlast))
  · obtain ⟨⟨-, hfault⟩, hs', hheld'⟩ := huv
    simp [State.finished, State.pending, State.consumed, hs', hheld', hfault]
  · show v.frames ++ [v.wire] = _
    rw [hframes, hframe]

end Sys2Proof.Machine
end

section
/-! PROOFS. The family of `45_driver_facade.md`: the pin sample and the output mode it selects (R42, R231), and the hold
of `refresh` while a frame is in flight (R232, R257). -/

namespace Sys2Proof.Machine

section OutputMode
/-! Only `init` takes a pin sample and writes the output mode (R42, R231; log 8): each shared operation keeps both, so
each other instruction does. -/

variable {s t : State}

/-- `t` has the output mode of `s`, and as many pin samples drawn. -/
abbrev SameOutMode (s t : State) : Prop := t.outMode = s.outMode ∧ t.draws = s.draws

theorem SameOutMode.refl (s : State) : SameOutMode s s := ⟨rfl, rfl⟩

theorem setBuf_sameOutMode (s : State) (b : BufId) (m : Memory Color) : SameOutMode s (s.setBuf b m) :=
  ⟨State.setBuf_outMode s b m, State.setBuf_draws s b m⟩

theorem acknowledged_sameOutMode (s : State) (src : IrqSource) (p : Nat) : SameOutMode s (s.acknowledged src p) :=
  ⟨State.acknowledged_outMode s src p, State.acknowledged_draws s src p⟩

theorem fillHalf_sameOutMode (h : fillHalf s = .ok t) : SameOutMode s t := by
  rw [fillHalf_frame h]
  exact SameOutMode.refl s

theorem beat_sameOutMode (h : beat s = .ok t) : SameOutMode s t := by
  rw [beat_frame h]
  exact SameOutMode.refl s

theorem serveHalfTransfer_sameOutMode (h : serveHalfTransfer s = .ok t) : SameOutMode s t := by
  obtain ⟨p, -, h⟩ := serveHalfTransfer_eq_ok.1 h
  simpa [SameOutMode] using fillHalf_sameOutMode h

theorem serveComplete_sameOutMode (h : serveComplete s = .ok t) : SameOutMode s t := by
  obtain ⟨p, total, -, -, ⟨-, h⟩ | ⟨-, rfl⟩⟩ := serveComplete_eq_ok.1 h
  · simpa [SameOutMode] using fillHalf_sameOutMode h
  · exact acknowledged_sameOutMode s _ p

theorem fillAll_sameOutMode {color : Color} {count : Nat} (h : fillAll color count s = .ok t) : SameOutMode s t := by
  obtain ⟨a, -, rfl⟩ := fillAll_eq_ok.1 h
  exact setBuf_sameOutMode s _ _

theorem refreshNow_sameOutMode {n : Nat} (h : refreshNow n s = .ok t) : SameOutMode s t := by
  obtain ⟨a, -, -, -, -, -, hframe⟩ := refreshNow_cases h
  rw [hframe]
  exact SameOutMode.refl s

/-- `init` takes the next free sample and its mode (R231); the fill and the refresh of its step 5 keep both. -/
theorem exec_init_outMode (h : exec .init s = .next t) :
    t.outMode = outModeOf (Config.pinSample s.draws) ∧ t.draws = s.draws + 1 := by
  obtain ⟨-, -, -, u, hfill, hrefresh⟩ := exec_init_next h
  obtain ⟨hmode, hdraws⟩ := fillAll_sameOutMode hfill
  obtain ⟨hmode', hdraws'⟩ := refreshNow_sameOutMode hrefresh
  exact ⟨hmode'.trans hmode, hdraws'.trans hdraws⟩

theorem exec_sameOutMode {i : Instr} (hi : i ≠ .init) (h : exec i s = .next t) : SameOutMode s t := by
  cases i with
  | init => exact absurd rfl hi
  | setLed index color =>
    obtain ⟨-, ⟨-, rfl⟩ | ⟨a, -, -, rfl⟩⟩ := exec_setLed_next h
    · exact SameOutMode.refl _
    · exact setBuf_sameOutMode s _ _
  | setAllLeds color count refreshFlag =>
    obtain ⟨-, a, f, -, rfl, rfl⟩ := exec_setAllLeds_next h
    cases refreshFlag <;> exact setBuf_sameOutMode s _ _
  | refresh nLeds =>
    obtain ⟨-, ⟨-, rfl⟩ | ⟨-, h⟩⟩ := exec_refresh_next h
    · exact SameOutMode.refl s
    · exact refreshNow_sameOutMode (s := { s with held := none }) h
  | slot =>
    obtain ⟨-, ⟨-, -, h⟩ | ⟨-, rfl⟩⟩ := exec_slot_next h
    · exact beat_sameOutMode h
    · exact SameOutMode.refl _
  | onHalfTransfer =>
    obtain ⟨-, ⟨-, -, h⟩ | ⟨-, rfl⟩⟩ := exec_onHalfTransfer_next h
    · exact serveHalfTransfer_sameOutMode h
    · exact SameOutMode.refl _
  | onComplete =>
    obtain ⟨-, ⟨-, -, h⟩ | ⟨-, rfl⟩⟩ := exec_onComplete_next h
    · exact serveComplete_sameOutMode h
    · exact SameOutMode.refl _
  | tick =>
    obtain ⟨-, ⟨-, rfl⟩ | ⟨-, cnt, arr, ccr, lv, -, -, -, -, hcount⟩⟩ := exec_tick_next h
    · exact SameOutMode.refl _
    · obtain ⟨-, rfl⟩ | ⟨-, -, rfl⟩ | ⟨-, -, h⟩ := hcount
      · exact SameOutMode.refl s
      · exact SameOutMode.refl s
      · exact beat_sameOutMode (s := { s with levels := lv, cnt := .val 0 }) h
  | fillHalf =>
    obtain ⟨-, ⟨-, h⟩ | ⟨-, rfl⟩⟩ := exec_fillHalf_next h
    · exact fillHalf_sameOutMode h
    · exact SameOutMode.refl _
  | arm => obtain ⟨-, ⟨-, rfl⟩ | ⟨-, rfl⟩⟩ := exec_arm_next h <;> exact ⟨rfl, rfl⟩
  | disarm => obtain ⟨-, ⟨-, rfl⟩ | ⟨-, rfl⟩⟩ := exec_disarm_next h <;> exact ⟨rfl, rfl⟩
  | encode | ledwordGrb24 | ledwordRgb24 | ledwordGrbw32 | ledwordRgbw32 | symBit0 | symBit1 | symPause =>
    obtain ⟨-, rfl⟩ := answer_eq_next h
    exact SameOutMode.refl s

end OutputMode

/-- Settles O25: `init` writes the mode of its sample once, and each part of every other instruction keeps the mode and
the counter. -/
theorem outModeIsChosenByInitOnly : Obligations.OutModeIsChosenByInitOnly := by
  unfold Obligations.OutModeIsChosenByInitOnly
  intro s t i h
  refine ⟨fun hi => exec_sameOutMode hi h, ?_⟩
  rintro rfl
  exact exec_init_outMode h

/-- Settles O26: a ready state passes the guards of the command, and a busy one holds. -/
theorem refreshHoldsWhileBusy : Obligations.RefreshHoldsWhileBusy := by
  unfold Obligations.RefreshHoldsWhileBusy
  intro s n hready hb
  obtain ⟨⟨hv, hf⟩, hi, hr⟩ := hready
  exact (readyCommand_of_ok hv hf hi hr).trans (refreshOrHold_of_busy hb)

end Sys2Proof.Machine
end

section
/-! PROOFS. The family of `60_exceptions.md`: a record that is no configuration is refused (R251), and the inner
procedures are enabled at their callers' calls only (R100, R271; log 12). -/

namespace Sys2Proof.Machine

section BadConfiguration
/-! A record that breaks R11 enables no step (R251; log 16): every operation passes `live` first. -/

variable {s : State}

theorem exec_of_bad (hv : s.cfg.valid = false) (i : Instr) : exec i s = .refused .badConfiguration := by
  cases i <;> exact live_of_bad hv

theorem step_of_bad (hv : s.cfg.valid = false) : step s = .refused .badConfiguration := by
  unfold step
  split
  next i s' hact => exact exec_of_bad (nextAction_keeps_cfg hact ▸ hv) i
  next => exact live_of_bad hv
  next => exact live_of_bad hv

end BadConfiguration

/-- Settles O43: every operation and every step passes `live`, which looks at the configuration before all else. -/
theorem badConfigurationIsRefused : Obligations.BadConfigurationIsRefused := by
  unfold Obligations.BadConfigurationIsRefused
  exact fun s i hv => ⟨exec_of_bad hv i, step_of_bad hv⟩

section Cursor
/-! The cursor as it moves by halves (R193 to R195): the write position toggles, the LED offset stops at the count. -/

variable {s t : State} {n k : Nat}

theorem toggledWrPos_half (c : Config) (k : Nat) : toggledWrPos c (k % 2 * c.bpl) = (k + 1) % 2 * c.bpl := by
  rw [toggledWrPos, ← half_start_mod_scratchLen, Nat.mod_add_mod, ← succ_half_start, half_start_mod_scratchLen]

/-- The two halves start at different words (R194), so `pos` past the half at `wr_pos` shows. -/
theorem half_start_ne_next (c : Config) (k : Nat) : k % 2 * c.bpl ≠ (k * c.bpl + c.bpl) % c.scratchLen := by
  rw [← succ_half_start, half_start_mod_scratchLen]
  intro heq
  have := Nat.eq_of_mul_eq_mul_right (bpl_pos c) heq
  omega

/-- The cursor in a frame of `n` LEDs with `k` halves filled. -/
abbrev CursorAt (s : State) (n k : Nat) : Prop :=
  s.nCur = .val n ∧ s.ledOff = .val (min n k) ∧ s.wrPos = .val (k % 2 * s.cfg.bpl)

theorem startCursor_cursorAt (s : State) (n : Nat) : CursorAt (s.startCursor n) n 0 := by
  simp [CursorAt]

theorem fillHalf_cursorAt (h : fillHalf s = .ok t) (hc : CursorAt s n k) : CursorAt t n (k + 1) := by
  obtain ⟨hn, hled, hw⟩ := hc
  obtain ⟨led, n', w, hled', hn', hw', -, hcase⟩ := fillHalf_cases h
  obtain rfl : n' = n := Elem.val.inj (hn'.symm.trans hn)
  obtain rfl : led = min n' k := Elem.val.inj (hled'.symm.trans hled)
  obtain rfl : w = k % 2 * s.cfg.bpl := Elem.val.inj (hw'.symm.trans hw)
  have htoggled := congrArg Elem.val (toggledWrPos_half s.cfg k)
  obtain ⟨hmore, -, a, color, -, -, rfl⟩ | ⟨hdone, rfl⟩ := hcase
  · exact ⟨hn, congrArg Elem.val (by omega), htoggled⟩
  · exact ⟨hn, hled.trans (congrArg Elem.val (by omega)), htoggled⟩

end Cursor

section Callers
/-! The enabling conditions at the calls of `refresh` (R195, R196) and of the two services (R200, R201). -/

variable {s t : State} {a : BufId} {n q : Nat}

theorem startCursor_insideRefresh (hr : Ready s) (hb : s.busy = false) : insideRefresh (s.startCursor n) = true := by
  obtain ⟨-, hthread, hinit⟩ := hr
  exact insideRefresh_eq_true.2 ⟨hthread, hinit, hb, rfl⟩

theorem fillHalf_insideRefresh (h : fillHalf s = .ok t) (hin : insideRefresh s = true) : insideRefresh t = true := by
  rw [fillHalf_frame h]
  exact hin

theorem fillEnabled_of_insideRefresh (h : insideRefresh s = true) : fillEnabled s = true := by
  rw [fillEnabled, h, Bool.true_or]

theorem fillEnabled_of_insideService (h : insideService s = true) : fillEnabled s = true := by
  rw [fillEnabled, h, Bool.or_true]

theorem armEnabled_of_cursorAt (hin : insideRefresh s = true) (hc : CursorAt s n 2) : armEnabled s = true := by
  obtain ⟨hn, hled, hw⟩ := hc
  exact armEnabled_eq_true.2 ⟨hin, n, hn, hled, hw.trans (congrArg Elem.val (Nat.zero_mul _))⟩

theorem InFlight.wrPos (h : InFlight s a n q) : s.wrPos = .val (q % 2 * s.cfg.bpl) := by
  obtain ⟨-, -, -, -, -, -, -, -, -, -, hwr, -⟩ := h
  exact hwr

/-- A service that has acknowledged its half has `pos` past the half at `wr_pos` (R213). -/
theorem acknowledged_insideService (h : InFlight s a n q) (hi : s.issuer = .interrupt) (src : IrqSource) :
    insideService (s.acknowledged src (q * s.cfg.bpl)) = true := by
  refine insideService_eq_true.2 ⟨(State.acknowledged_issuer s src _).trans hi,
    (State.acknowledged_busy s src _).trans h.busy, _, _, State.acknowledged_pos s src _,
    (State.acknowledged_wrPos s src _).trans h.wrPos, ?_⟩
  rw [State.acknowledged_cfg]
  exact half_start_ne_next s.cfg q

theorem acknowledged_disarmEnabled (h : InFlight s a n q) (hi : s.issuer = .interrupt) (src : IrqSource)
    (hend : s.cfg.frameLen n ≤ (q + 1) * s.cfg.bpl) : disarmEnabled (s.acknowledged src (q * s.cfg.bpl)) = true := by
  rw [succ_half_start] at hend
  exact disarmEnabled_eq_true.2 ⟨acknowledged_insideService h hi src, _, _, State.acknowledged_pos s src _,
    (State.acknowledged_total s src _).trans h.total, hend⟩

/-- Between two steps a request for an inner procedure is answered with the state as it was (R100, R271). -/
theorem exec_innerProcedure_of_inv {i : Instr} (h : Inv s) (hin : i.isInnerProcedure = true) : exec i s = .next s := by
  obtain ⟨hv, hf, -, hp⟩ := h
  cases i with
  | fillHalf => exact whenEnabled_of_disabled hv hf (InPhase.not_fillEnabled hv hp)
  | arm => exact whenEnabled_of_disabled hv hf (InPhase.not_armEnabled hv hp)
  | disarm => exact whenEnabled_of_disabled hv hf (InPhase.not_disarmEnabled hp)
  | _ => cases hin

end Callers

/-- Settles O32: no phase of a run is inside a caller; `refresh` stays inside itself while `prefill` moves the cursor to
two halves, and an acknowledged half is inside its service, at the total or short of it. -/
theorem innerProceduresAreCalledOnly : Obligations.InnerProceduresAreCalledOnly := by
  unfold Obligations.InnerProceduresAreCalledOnly
  refine ⟨fun s i => exec_innerProcedure_of_inv, fun s m u n hready hb h1 h2 => ?refresh, fun s a n q h hi => ?service⟩
  case refresh =>
    have hstart : insideRefresh (s.startCursor n) = true := startCursor_insideRefresh hready hb
    have hhalf : insideRefresh m = true := fillHalf_insideRefresh h1 hstart
    have hfilled : insideRefresh u = true := fillHalf_insideRefresh h2 hhalf
    have hcursor : CursorAt u n 2 := fillHalf_cursorAt h2 (fillHalf_cursorAt h1 (startCursor_cursorAt s n))
    exact ⟨fillEnabled_of_insideRefresh hstart, fillEnabled_of_insideRefresh hhalf, prefill_eq_ok.2 ⟨m, h1, h2⟩,
      armEnabled_of_cursorAt hfilled hcursor⟩
  case service =>
    refine ⟨fillEnabled_of_insideService (acknowledged_insideService h hi _), ?_⟩
    split
    next => exact fillEnabled_of_insideService (acknowledged_insideService h hi _)
    next hend => exact acknowledged_disarmEnabled h hi _ (Nat.le_of_not_lt hend)

end Sys2Proof.Machine
end

section
/-! PROOFS. The family of `70_reset_and_hazards.md`: hardware reset (R290) and the refill deadline (R300). -/

namespace Sys2Proof.Machine

section Deadline
/-! In a live state a `slot` of a frame in flight is its beat, on either side of the deadline (R197, R300). -/

variable {s : State} {a : BufId} {n q : Nat}

theorem exec_slot_at_deadline (hl : Live s) (h : InFlight s a n q) (hk : s.wire.length + 1 = (q + 2) * s.cfg.bpl) :
    exec .slot s = .fault .refillOverrun := by
  obtain ⟨hbeat, -⟩ := beat_at_deadline h hk
  rw [exec_slot_of_enabled hl h.timEn h.dmaEn, hbeat, settle_error]

theorem exec_slot_before_deadline (hl : Live s) (h : InFlight s a n q)
    (hk : s.wire.length + 1 < (q + 2) * s.cfg.bpl) :
    ∃ t, exec .slot s = .next t ∧ t.wire = s.wire ++ [frameValue s.cfg (s.buf a) n s.wire.length] ∧
      InFlight t a n q := by
  obtain ⟨t, hbeat, hflight, hwire⟩ := beat_before_deadline h hk
  exact ⟨t, by rw [exec_slot_of_enabled hl h.timEn h.dmaEn, hbeat, settle_ok], hwire, hflight⟩

end Deadline

/-- Settles O53: with `q` services done a flag is pending from beat `(q + 1) * BPL` on, and the next beat to raise one is
number `(q + 2) * BPL`. -/
theorem refillDeadlineIsExact : Obligations.RefillDeadlineIsExact := by
  unfold Obligations.RefillDeadlineIsExact
  exact fun s a n q hl h => ⟨exec_slot_at_deadline hl h, exec_slot_before_deadline hl h⟩

/-- Before `init` the level of the wire holds no value (R290). -/
theorem line_of_uninitialised {s : State} (hi : s.initialised = false) : s.line = .unspecified := by
  simp [State.line, hi]

/-- Settles O23: `State.resetWith` lists each register's value; the memories hold no entry, and the level of the wire
holds no value before `init`. -/
theorem hardwareResetIsQuiet : Obligations.HardwareResetIsQuiet := by
  unfold Obligations.HardwareResetIsQuiet
  intro c s
  obtain ⟨-, hreset⟩ := resetMemoriesAreCanonical
  obtain ⟨-, hunwritten⟩ := hreset c
  have hline : s.line = .unspecified := line_of_uninitialised rfl
  exact ⟨rfl, rfl, rfl, rfl, rfl, rfl, rfl, rfl, rfl, rfl, rfl, hunwritten, rfl, rfl, rfl, rfl, rfl, rfl, rfl, rfl, rfl,
    rfl, rfl, hline⟩

end Sys2Proof.Machine
end
